-- ==== Sys2Proof/Word.lean ====
section
/-!
DEFINITION. The words of the machine: SCR_EL3 and X[t] are 64 bits wide (rules R3, R46), an instruction is one word
of 32 bits (rule R62), memory is addressed in bytes.
-/

namespace Sys2Proof

/-- A 64-bit register value or address. -/
abbrev Word := BitVec 64

/-- One instruction word (rule R62). -/
abbrev InstrWord := BitVec 32

/-- The smallest addressable unit of the instruction memory. -/
abbrev Byte := BitVec 8

end Sys2Proof
end

