-- ==== Sys2Proof/Config.lean ====
section
/-!
DEFINITION. What an implementation fixes (00_scope.md section 4) and the free values: constants without a body, so
that no proof can see what they are.
-/

namespace Sys2Proof

/-- The four Exception levels of `PSTATE.EL` (rule R44). -/
inductive EL where
  | el0 | el1 | el2 | el3
deriving DecidableEq, Repr

/-- How RES0 and RES1 bits behave, which the source leaves open (rules R18, R19, decision D4). -/
inductive ResPolicy where
  /-- A reserved bit reads its fixed value and ignores writes. -/
  | hardwired
  /-- A reserved bit holds what was last written, with no effect. -/
  | stored
deriving DecidableEq, Repr

/-- Whether translations may follow TLB copies of ATA, EEL2, RW and SIF (rule R52, decision D9). -/
inductive TLBModel where
  /-- The current Effective value is used. -/
  | none
  /-- Each use picks between the current value and any value held since the last invalidation. -/
  | draw
deriving DecidableEq, Repr

/-- The seventeen parameters of 00_scope.md section 4, with the two further arguments `TLBModel` (D9) and `ResetLevel`
(D19) that the section names after its table. All are left OPEN by the spec (D2). -/
structure Params where
  haveEL3 : Bool
  haveEL2 : Bool
  secureOnly : Bool
  haveAArch32EL1 : Bool
  haveAArch32EL2 : Bool
  haveSecEL2 : Bool
  havePAuth : Bool
  haveRAS84 : Bool
  haveFaultInjection : Bool
  haveMemTag : Bool
  haveCSV2 : Bool
  haveDFE : Bool
  haveRAS : Bool
  haveLOR : Bool
  resetIntoAArch64 : Bool
  mapsToAArch32SCR : Bool
  resPolicy : ResPolicy
  tlbModel : TLBModel
  resetLevel : EL
deriving DecidableEq, Repr

/-- Whether the implementation has the Exception level: EL2 and EL3 may be absent (rule R145). -/
def Params.hasLevel (p : Params) : EL → Bool
  | .el0 => true
  | .el1 => true
  | .el2 => p.haveEL2
  | .el3 => p.haveEL3

/-- A PE resets into a level it has (rule R162). -/
def Params.wf (p : Params) : Bool := p.hasLevel p.resetLevel

/-- `CFG_ALL` of decision D2, the configuration of the spec's test vectors. DESIGN CHOICE, unsafe: no claim about any
part may rest on it (log 1); `tlbModel` and `resetLevel`, which `CFG_ALL` does not name, are `draw` and EL3. -/
def cfgAll : Params where
  haveEL3 := true
  haveEL2 := true
  secureOnly := false
  haveAArch32EL1 := true
  haveAArch32EL2 := true
  haveSecEL2 := true
  havePAuth := true
  haveRAS84 := true
  haveFaultInjection := true
  haveMemTag := true
  haveCSV2 := true
  haveDFE := true
  haveRAS := true
  haveLOR := true
  resetIntoAArch64 := true
  mapsToAArch32SCR := false
  resPolicy := .hardwired
  tlbModel := .draw
  resetLevel := .el3

/-- The free 64-bit value `u` of rule R161, one draw per reset (U1, D5). Nothing constrains it (log 4). -/
opaque Config.unknownScr : Nat → Word

/-- The evaluations of predicates that one use of the controls makes. Each sees a value of SCR_EL3 of its own choice
(rule R56, D12; log 7). -/
inductive Evaluation where
  /-- The rule of the operation or of the routing itself (rules R80 to R83, R87, R90 to R96, R99, R101 to R106). -/
  | own
  /-- The Security state of a level (rules R107, R108). -/
  | security
  /-- The Execution state of a level (rules R100, R108). -/
  | execution
  /-- Whether SError is masked at EL3 (rule R84). -/
  | masking
  /-- The vector of a synchronous External abort (rule R85). -/
  | vector
deriving DecidableEq, Repr

/-- What one free choice decides. -/
inductive Choice where
  /-- The visible value of SCR_EL3 an evaluation reads (rule R56, D12). -/
  | governing (r : Evaluation)
  /-- The visible value that `SecureEL2Enabled`, a predicate of its own, reads within an evaluation (rules R56, R86). -/
  | secureEL2 (r : Evaluation)
  /-- The TLB copies an evaluation follows (rule R52, D9). -/
  | copies (r : Evaluation)
  /-- Between two outcomes without a stated priority (rule R143, D17). -/
  | rival
  /-- Between an armed WFE or WFI trap and completing (rule R97). -/
  | trap
deriving DecidableEq, Repr

/-- The free choices of the step relation at each draw: which visible value, which TLB copy, which of two outcomes (U8,
U9, U14, U15). Nothing constrains them (log 6). -/
opaque Config.choice : Nat → Choice → Nat

/-- "The appropriate synchronous exception vector offset", which the source does not give (N12, rule R85). "Appropriate"
is to where the exception came from: its level and whether that level used AArch32 (log 13). -/
opaque Config.syncVectorOffset : EL → Bool → Word

/-- "The appropriate SError interrupt vector offset", which the source does not give (N12, rule R85; log 13). -/
opaque Config.serrorVectorOffset : EL → Bool → Word

end Sys2Proof
end

