-- ==== Sys2Proof/Syntax.lean ====
section
/-!
DEFINITION. The instructions: the two rows of spec/opcode_table.json, the whole instruction set of the spec
(40_register_access.md).
-/

namespace Sys2Proof

/-- The two System register accesses. `t` is the number of the general-purpose register `X[t]` (rule R63). -/
inductive Instr where
  /-- `MRS Xt, SCR_EL3` (rule R70), the table's MRS_Xt__SCR_EL3. -/
  | mrsScr (t : Nat)
  /-- `MSR SCR_EL3, Xt` (rule R71), the table's MSR_SCR_EL3__Xt. -/
  | msrScr (t : Nat)
deriving DecidableEq, Repr

end Sys2Proof
end

