-- ==== Sys2Proof/WellFormed.lean ====
section
/-!
DEFINITION. Which instructions the encoding admits.
-/

namespace Sys2Proof

/-- The register number of an access instruction ranges over 0 to 31 (rule R63). -/
def Instr.wf : Instr → Bool
  | .mrsScr t => decide (t ≤ 31)
  | .msrScr t => decide (t ≤ 31)

end Sys2Proof
end

