-- ==== Sys2Proof/Decode.lean ====
section
/-!
DEFINITION. The decoder and the encoder, both written from the encoding tables of rules R60 and R61 and the container of
rule R62 (PRESUMED: GK2; log 2).
-/

namespace Sys2Proof

/-- Why a byte string is no instruction of this spec. -/
inductive DecodeError where
  /-- Fewer than the four bytes of an instruction word. -/
  | truncated
  /-- A word that matches neither row of rule R62: "not described by any source" (rule R64, decision D13). -/
  | notDescribed (w : InstrWord)
deriving DecidableEq, Repr

/-- The fields of the System register move container, in the order of the word (rule R62). -/
structure SysRegMove where
  fixed : BitVec 10
  l : BitVec 1
  op0 : BitVec 2
  op1 : BitVec 3
  crn : BitVec 4
  crm : BitVec 4
  op2 : BitVec 3
  rt : BitVec 5
deriving DecidableEq, Repr

/-- The container's fields of a word: bits 31:22, 21, 20:19, 18:16, 15:12, 11:8, 7:5, 4:0 (rule R62). -/
def SysRegMove.ofWord (w : InstrWord) : SysRegMove where
  fixed := w.extractLsb' 22 10
  l := w.extractLsb' 21 1
  op0 := w.extractLsb' 19 2
  op1 := w.extractLsb' 16 3
  crn := w.extractLsb' 12 4
  crm := w.extractLsb' 8 4
  op2 := w.extractLsb' 5 3
  rt := w.extractLsb' 0 5

/-- The word with these container fields. -/
def SysRegMove.toWord (f : SysRegMove) : InstrWord :=
  f.fixed ++ f.l ++ f.op0 ++ f.op1 ++ f.crn ++ f.crm ++ f.op2 ++ f.rt

/-- The access of SCR_EL3 with the given `L` bit and register number: op0 = 3, op1 = 6, CRn = 1, CRm = 1, op2 = 0
(rules R60, R61). -/
def scrAccess (l : BitVec 1) (rt : BitVec 5) : SysRegMove where
  fixed := 0b1101010100#10
  l := l
  op0 := 0b11#2
  op1 := 0b110#3
  crn := 0b0001#4
  crm := 0b0001#4
  op2 := 0b000#3
  rt := rt

/-- Reads one instruction word. `L = 1` is the read, `L = 0` the write (rule R62); every word that matches neither row is
refused by name (rule R64). -/
def decodeWord (w : InstrWord) : Except DecodeError Instr :=
  let f := SysRegMove.ofWord w
  if f = scrAccess 1#1 f.rt then .ok (.mrsScr f.rt.toNat)
  else if f = scrAccess 0#1 f.rt then .ok (.msrScr f.rt.toNat)
  else .error (.notDescribed w)

/-- The word four bytes make, the first at the lowest address (little-endian, rule R62). -/
def wordOfBytes (b0 b1 b2 b3 : Byte) : InstrWord := b3 ++ b2 ++ b1 ++ b0

/-- The four bytes of a word, the least significant first (little-endian, rule R62). -/
def bytesOfWord (w : InstrWord) : List Byte :=
  [w.extractLsb' 0 8, w.extractLsb' 8 8, w.extractLsb' 16 8, w.extractLsb' 24 8]

/-- Reads one instruction from the front of a byte string and returns the rest of it. -/
def decode : List Byte → Except DecodeError (Instr × List Byte)
  | b0 :: b1 :: b2 :: b3 :: rest =>
    match decodeWord (wordOfBytes b0 b1 b2 b3) with
    | .ok i => .ok (i, rest)
    | .error e => .error e
  | _ => .error .truncated

/-- The word of an instruction: `0xD53E1100 OR t` and `0xD51E1100 OR t` (rules R70, R71), from the same fields. -/
def encodeWord : Instr → InstrWord
  | .mrsScr t => (scrAccess 1#1 (BitVec.ofNat 5 t)).toWord
  | .msrScr t => (scrAccess 0#1 (BitVec.ofNat 5 t)).toWord

/-- The bytes of an instruction as they stand in memory. -/
def encode (i : Instr) : List Byte := bytesOfWord (encodeWord i)

/-- The bytes of an opcode-table word of `nbits` bits, every bit above them 0. -/
def tableWord (nbits w : Nat) : InstrWord := BitVec.ofNat 32 (w % 2 ^ nbits)

/-- The instruction the decoder reads from an instruction whose bits are `w`. -/
def decodeTableWord (nbits w : Nat) : Option Instr :=
  match decode (bytesOfWord (tableWord nbits w)) with
  | .ok (i, _) => some i
  | .error _ => none

end Sys2Proof
end

