-- ==== Sys2Proof/Machine/Fields.lean ====
section
/-!
DEFINITION. SCR_EL3 bit by bit: the positions of its fields (rules R10, R11), which of them an implementation has (R21),
the value a write stores (R43), the value a reset leaves (R161) and the Effective values (R20).
-/

namespace Sys2Proof

/-- The named one-bit fields of SCR_EL3, most significant first (rule R11). -/
inductive Field where
  | ata | enscxt | fien | nmea | ease | eel2 | api | apk | terr | tlor | twe | twi | st | rw | sif | hce | smd
  | ea | fiq | irq | ns
deriving DecidableEq, Repr

/-- The bit of each field (rule R11). -/
def Field.bit : Field → Nat
  | .ata => 26
  | .enscxt => 25
  | .fien => 21
  | .nmea => 20
  | .ease => 19
  | .eel2 => 18
  | .api => 17
  | .apk => 16
  | .terr => 15
  | .tlor => 14
  | .twe => 13
  | .twi => 12
  | .st => 11
  | .rw => 10
  | .sif => 9
  | .hce => 8
  | .smd => 7
  | .ea => 3
  | .fiq => 2
  | .irq => 1
  | .ns => 0

/-- The field whose column stands at a bit of the figure, if a field does (rule R10). -/
def fieldAt : Nat → Option Field
  | 26 => some .ata
  | 25 => some .enscxt
  | 21 => some .fien
  | 20 => some .nmea
  | 19 => some .ease
  | 18 => some .eel2
  | 17 => some .api
  | 16 => some .apk
  | 15 => some .terr
  | 14 => some .tlor
  | 13 => some .twe
  | 12 => some .twi
  | 11 => some .st
  | 10 => some .rw
  | 9 => some .sif
  | 8 => some .hce
  | 7 => some .smd
  | 3 => some .ea
  | 2 => some .fiq
  | 1 => some .irq
  | 0 => some .ns
  | _ => none

/-- Whether the implementation has the field; where it has not, the bit is RES0 (rules R21 to R42). -/
def Field.present (p : Params) : Field → Bool
  | .ata => p.haveMemTag
  | .enscxt => p.haveCSV2
  | .fien => p.haveFaultInjection
  | .nmea => p.haveDFE
  | .ease => p.haveDFE
  | .eel2 => p.haveSecEL2
  | .api => p.havePAuth
  | .apk => p.havePAuth
  | .terr => p.haveRAS
  | .tlor => p.haveLOR
  | .hce => p.haveEL2
  | .twe => true
  | .twi => true
  | .st => true
  | .rw => true
  | .sif => true
  | .smd => true
  | .ea => true
  | .fiq => true
  | .irq => true
  | .ns => true

/-- The four fields that are "permitted to be cached in a TLB" (rule R52). -/
def Field.cacheable : Field → Bool
  | .ata => true
  | .eel2 => true
  | .rw => true
  | .sif => true
  | _ => false

/-- RW is RAO/WI when AArch32 is supported at neither EL2 nor EL1 (rule R35 clause 1). -/
def rwIsRAO (p : Params) : Bool := !p.haveAArch32EL2 && !p.haveAArch32EL1

/-- A reserved bit of fixed value `c` to which `b` is written (rules R18, R19). -/
def reservedBit (p : Params) (c b : Bool) : Bool :=
  match p.resPolicy with
  | .hardwired => c
  | .stored => b

/-- `Legal(v)[n]` for the bit `b` offered at position `n` (rule R43). -/
def legalBit (p : Params) (n : Nat) (b : Bool) : Bool :=
  match fieldAt n with
  | some f =>
    if f.present p then
      if f = .rw ∧ rwIsRAO p = true then true else b
    else reservedBit p false b
  | none => if n = 5 ∨ n = 4 then reservedBit p true b else reservedBit p false b

/-- The value a write of `v` stores (rule R43). -/
def legal (p : Params) (v : Word) : Word := BitVec.ofFnLE fun n : Fin 64 => legalBit p n (v.getLsbD n)

/-- The bits a reset into AArch64 clears: NMEA and EASE, "This field resets to 0." (rule R161). -/
def resetClears : Word := 0x0000000000180000#64

/-- SCR_EL3 after a reset that draws `u` for every UNKNOWN bit (rules R160, R161). An absent field resets as a RES0 bit,
so NMEA and EASE are cleared only where the implementation has them. -/
def resetScr (p : Params) (u : Word) : Word :=
  legal p (if p.resetIntoAArch64 && p.haveDFE then u &&& ~~~resetClears else u)

/-- The stored bit of a field. -/
def stored (v : Word) (f : Field) : Bool := v.getLsbD f.bit

/-- `Eff_EEL2` (rule R27). -/
def effEEL2 (p : Params) (v : Word) : Bool :=
  if p.haveSecEL2 then
    if p.secureOnly && !p.haveEL3 && p.haveEL2 then true else stored v .eel2
  else false

/-- `Eff_FIEN`: 1 without EL3 (rule R24). -/
def effFIEN (p : Params) (v : Word) : Bool :=
  if p.haveEL3 then p.haveFaultInjection && stored v .fien else true

/-- `Eff_API` and `Eff_APK` of a stored bit: 1 with pointer authentication and without EL3 (rules R28, R29). -/
def effPAuth (p : Params) (v : Word) (f : Field) : Bool :=
  if p.havePAuth then
    if p.haveEL3 then stored v f else true
  else false

/-- `Eff_ST` for a value of `SecureEL2Enabled`: 1 when Secure EL2 is enabled (rule R34). -/
def effSTWith (eel2 : Bool) (v : Word) : Bool := if eel2 then true else stored v .st

/-- `Eff_ST` (rule R34). -/
def effST (p : Params) (v : Word) : Bool := effSTWith (effEEL2 p v) v

/-- `Eff_RW` for a value of `Eff_EEL2`, the clauses of rule R35 in their order; the third in the wider form that conflict
C5 adopts. -/
def effRWWith (p : Params) (eel2 : Bool) (v : Word) : Bool :=
  if rwIsRAO p then true
  else if p.haveAArch32EL1 && stored v .ns && !p.haveAArch32EL2 then true
  else if eel2 && !stored v .ns then true
  else stored v .rw

/-- `Eff_RW` (rule R35). -/
def effRW (p : Params) (v : Word) : Bool := effRWWith p (effEEL2 p v) v

/-- `Eff_F`, the value that decides behaviour (rule R20): the stored bit but for the six fields whose rule says
otherwise; a field the implementation lacks has the behaviour of value 0 (DEDUCED from R22, R27 and R37; log 9). -/
def eff (p : Params) (v : Word) : Field → Bool
  | .eel2 => effEEL2 p v
  | .fien => effFIEN p v
  | .api => effPAuth p v .api
  | .apk => effPAuth p v .apk
  | .st => effST p v
  | .rw => effRW p v
  | f => f.present p && stored v f

/-- The value of every control as a predicate of 41_field_effects.md reads it. -/
abbrev Controls := Field → Bool

end Sys2Proof
end

