-- ==== Sys2Proof/Machine/State.lean ====
section
/-!
DEFINITION. The machine's state: SCR_EL3, the general registers and pc the accesses use, the hidden TLB copies and the
visibility window, the inputs of 10_state.md section 5, and the events the environment still has to deliver.
-/

namespace Sys2Proof.Machine

/-! ## The operations the fields control (30_encoding.md section 5) -/

/-- The four uses of Allocation Tags of rule R81, in its order, loads and stores of tags apart. -/
inductive TagUse where
  | loadStoreData | loadTag | storeTag | insertLogicalTag | invalidateTags
deriving DecidableEq, Repr

/-- The registers EnSCXT controls (rule R82). -/
inductive ScxtReg where
  | scxtnumEl0 | scxtnumEl1 | scxtnumEl2
deriving DecidableEq, Repr

/-- The registers FIEN controls (rule R83). -/
inductive FaultInjReg where
  | erxpfgcdnEl1 | erxpfgctlEl1 | erxpfgfEl1
deriving DecidableEq, Repr

/-- The error record registers TERR controls (rule R93): the AArch64 names, then the AArch32 names. -/
inductive ErrorReg where
  | erridrEl1 | errselrEl1 | erxaddrEl1 | erxctlrEl1 | erxfrEl1 | erxmisc0El1 | erxmisc1El1 | erxstatusEl1
  | erxmisc2El1 | erxmisc3El1
  | erridr | errselr | erxaddr | erxaddr2 | erxctlr | erxctlr2 | erxfr | erxfr2
  | erxmisc0 | erxmisc1 | erxmisc2 | erxmisc3 | erxstatus
  | erxmisc4 | erxmisc5 | erxmisc6 | erxmisc7
deriving DecidableEq, Repr

/-- The LOR registers TLOR controls (rule R94). -/
inductive LorReg where
  | lorsaEl1 | loreaEl1 | lornEl1 | lorcEl1 | loridEl1
deriving DecidableEq, Repr

/-- The Counter-timer Physical Secure timer registers ST controls (rule R99). -/
inductive TimerReg where
  | cntpsTvalEl1 | cntpsCtlEl1 | cntpsCvalEl1
deriving DecidableEq, Repr

/-- Which of the two lost lists an AArch32 Secure EL1 operation stands in: the one reported with `ESR_EL2.EC == 0x3`
(rule R88) or the one with `0x0` (rule R89). -/
inductive LostList where
  | ec3 | ec0
deriving DecidableEq, Repr

/-- An operation whose outcome SCR_EL3 governs, attempted at the current Exception level. -/
inductive Operation where
  /-- A use of Allocation Tags (rules R80, R81). -/
  | tag (u : TagUse)
  /-- An access to an SCXTNUM register (rule R82). -/
  | scxtAccess (r : ScxtReg)
  /-- The PE's own use of an SCXTNUM register's value (rule R82, "to be treated as 0"). -/
  | scxtUse (r : ScxtReg)
  /-- An access to an ERXPFG register (rule R83). -/
  | faultInjection (r : FaultInjReg)
  /-- An access to a register "defined by ARMv8.4-SecEL2" (rule R87). -/
  | secEL2Register
  /-- The running of a timer "defined by ARMv8.4-SecEL2" (rule R87). -/
  | secEL2Timer
  /-- An operation of the lost lists of rules R88 and R89. -/
  | aarch32SecureOp (l : LostList)
  /-- A pointer authentication instruction; `enabled`: "when the instructions are enabled" (rule R91). -/
  | pauthInstr (enabled : Bool)
  /-- An access to a register holding a key for pointer authentication (rule R92). -/
  | pauthKey
  /-- An access to an error record register (rule R93). -/
  | errorRecord (r : ErrorReg)
  /-- An access to a LOR register; `isUndefined`: the access is UNDEFINED for a reason of its own (rule R94). -/
  | lor (r : LorReg) (isUndefined : Bool)
  /-- A WFE; `wouldSleep`: it "would otherwise have caused the PE to enter a low-power state" (R95); `passes`: it is
  unconditional or passes its condition code check (R98). -/
  | wfe (wouldSleep passes : Bool)
  /-- A WFI, likewise (rules R96, R98). -/
  | wfi (wouldSleep passes : Bool)
  /-- An access to a CNTPS register (rule R99). -/
  | secureTimer (r : TimerReg)
  /-- An HVC (rule R102). -/
  | hvc
  /-- An SMC (rule R103). -/
  | smc
  /-- An instruction fetch of four bytes (rules R101, R107). -/
  | fetch (addr : Word)
  /-- A memory access of `n` bytes (rule R107). -/
  | access (addr : Word) (n : Nat)
deriving DecidableEq, Repr

/-- What the machine answers to an attempted operation that neither faults nor is refused. -/
inductive Answer where
  /-- Not affected by this register; the caller goes on by rules of its own (D22). -/
  | notAffected
  /-- Two outcomes applied without a stated priority and the other one was taken (D17). -/
  | claimedElsewhere
  /-- A WFE or WFI whose trap was armed completed as a no-op (rule R97). -/
  | completesAsNop
  /-- The data access is Unchecked (rule R81 item 1). -/
  | unchecked
  /-- The Allocation Tag reads as 0 (rule R81 item 2). -/
  | tagReadsZero
  /-- The write of the Allocation Tag is ignored (rule R81 item 2). -/
  | tagWriteIgnored
  /-- The Allocation Tag used for the Logical Address Tag is treated as 0 (rule R81 item 3). -/
  | logicalTagFromZero
  /-- The invalidation behaves as the equivalent Clean and Invalidate (rule R81 item 4). -/
  | cleanAndInvalidate
  /-- The value the PE uses for the register (rule R82). -/
  | registerValue (v : Word)
  /-- The timers of ARMv8.4-SecEL2 are disabled (rule R87). -/
  | timersDisabled
  /-- The interrupt is not taken and stays pending (rules R84, R105, R106, R142). -/
  | staysPending
  /-- The interrupt or abort is not taken to EL3; what takes it is not in the source (rules R104 to R106). -/
  | notTakenToEL3
deriving DecidableEq, Repr

/-! ## Interrupts -/

/-- The interrupts that can be asserted (rule R142); FIQ and IRQ are the physical ones. -/
inductive Interrupt where
  | fiq | irq | serror
deriving DecidableEq, Repr

/-- What can be routed to EL3 (rule R142). -/
inductive Source where
  | interrupt (k : Interrupt)
  | externalAbort (synchronous : Bool)
deriving DecidableEq, Repr

/-- Which interrupts are asserted. -/
structure Asserted where
  fiq : Bool
  irq : Bool
  serror : Bool
deriving DecidableEq, Repr

/-! ## The inputs (10_state.md section 5) -/

/-- Which of the five controls of rule R95 (or of rule R96) traps the WFE (or WFI). -/
structure LowerTraps where
  sctlrN : Bool
  hcr : Bool
  sctlrEl1N : Bool
  sctlrEl2N : Bool
  hcrEl2 : Bool
deriving DecidableEq, Repr

/-- The registers and fields of rule R47 that a predicate reads, as the environment supplies them. -/
structure Inputs where
  /-- `VBAR_EL3` (rule R85); 64 bits wide (PRESUMED, log 26). -/
  vbarEl3 : Word
  /-- `HCR_EL2.API` traps pointer authentication instructions to EL2 (rule R91). -/
  hcrEl2Api : Bool
  /-- `HCR_EL2.APK` traps key register accesses to EL2 (rule R92). -/
  hcrEl2Apk : Bool
  /-- `HCR_EL2.TLOR` traps LOR register accesses to EL2 (rule R94). -/
  hcrEl2Tlor : Bool
  /-- The controls that trap a WFE (rule R95). -/
  wfe : LowerTraps
  /-- The controls that trap a WFI (rule R96). -/
  wfi : LowerTraps
  /-- `SCXTNUM_EL0` (rule R82). -/
  scxtnum0 : Word
  /-- `SCXTNUM_EL1` (rule R82). -/
  scxtnum1 : Word
  /-- `SCXTNUM_EL2` (rule R82). -/
  scxtnum2 : Word
  /-- Whether the current level uses AArch32, where rule R100 does not say. -/
  aarch32 : Bool
  /-- The AArch32 register SCR where it has storage of its own (rule R13). -/
  aarch32Scr : BitVec 32
deriving DecidableEq, Repr

/-- How a region of memory is marked (rules R54, R101, R107). -/
inductive Mark where
  /-- "Marked in the first stage of translation as being Non-secure". -/
  | stage1NonSecure
  /-- "Non-secure memory". -/
  | nonSecure
  /-- "Secure memory". -/
  | secure
deriving DecidableEq, Repr

/-- A marked region: `size` bytes from `base`. -/
structure Region where
  base : Nat
  size : Nat
  mark : Mark
deriving DecidableEq, Repr

/-! ## The hidden TLB copies (rule R52) -/

/-- Which values a one-bit field has held since the last TLB invalidation. -/
structure Held where
  zero : Bool
  one : Bool
deriving DecidableEq, Repr

/-- The values the four cacheable fields have held since the last TLB invalidation (rule R52, D9). -/
structure TlbHeld where
  ata : Held
  eel2 : Held
  rw : Held
  sif : Held
deriving DecidableEq, Repr

/-- No value held. -/
def Held.none : Held := ⟨false, false⟩

/-- The value `b` is held as well. -/
def Held.add (h : Held) (b : Bool) : Held := if b then { h with one := true } else { h with zero := true }

/-- Nothing held for any field. -/
def TlbHeld.none : TlbHeld := ⟨Held.none, Held.none, Held.none, Held.none⟩

/-- The Effective values of an SCR_EL3 value are held as well. -/
def TlbHeld.add (h : TlbHeld) (e : Controls) : TlbHeld where
  ata := h.ata.add (e .ata)
  eel2 := h.eel2.add (e .eel2)
  rw := h.rw.add (e .rw)
  sif := h.sif.add (e .sif)

/-! ## Events of the environment -/

/-- What the environment can do to the machine (92_eei_decisions.md, "Agents" and "Host"; 95_test_vectors.md part 3). -/
inductive Event where
  /-- `Reset` (rule R160). -/
  | reset
  /-- `CtxSync`, a Context synchronization event (rule R56, D12). -/
  | ctxSync
  /-- TLB invalidation, which removes the copies (rule R52; PRESUMED GK4, log 8). -/
  | tlbInvalidate
  /-- `SetX(n, value)`: a general register is set. -/
  | setX (n : Nat) (v : Word)
  /-- `PSTATE.EL` becomes `el` (rule R44). -/
  | setEL (el : EL)
  /-- `PSTATE.A` becomes `b` (rule R45). -/
  | setA (b : Bool)
  /-- The inputs of rule R47 become `i`. -/
  | setInputs (i : Inputs)
  /-- The marks of memory become `m` (rule R54). -/
  | setMarks (m : List Region)
  /-- An operation is attempted at the current level; `rival`: another control, not of this spec, applies to it too. -/
  | attempt (op : Operation) (rival : Bool)
  /-- An interrupt is asserted (rule R142). -/
  | assert (k : Interrupt)
  /-- An interrupt is no longer asserted. -/
  | deassert (k : Interrupt)
  /-- The moment at which only the routing and masks of this spec decide over the interrupt (rule R142). -/
  | offer (k : Interrupt)
  /-- An External abort (rule R104). -/
  | externalAbort (synchronous : Bool)
deriving DecidableEq, Repr

/-! ## How a step can stop -/

/-- What is UNDEFINED (rule R140). -/
inductive UndefinedWhat where
  | scrAccess | secEL2Register | hvc | smc
deriving DecidableEq, Repr

/-- The faults. Every one ends the modelled run, since the spec describes no exception entry (rule R144, D16); that is
SAFE: a claim about the handler cannot be proved. -/
inductive Fault where
  /-- `raise Undefined` (rule R140): MRS or MSR of SCR_EL3 below EL3, or an attempted HVC, SMC or access to a register of
  ARMv8.4-SecEL2. Safe. -/
  | undefined (what : UndefinedWhat)
  /-- `raise TrapToEL3(what)` (rule R141): an attempted operation. Safe. -/
  | trapToEL3 (what : Operation)
  /-- An attempted operation is trapped to Secure EL2 with this class in `ESR_EL2.EC` (rules R88, R89); a class is 6 bits
  wide (PRESUMED, log 26). Safe. -/
  | trapToSecureEL2 (what : Operation) (ec : BitVec 6)
  /-- A fetch that SIF forbids, by a step or attempted (rule R101, D15). Safe. -/
  | fetchNotPermitted (addr : Word)
  /-- A Non-secure access to Secure memory, by a fetch or attempted (rule R107; log 12). Safe. -/
  | secureMemoryDenied (addr : Word)
  /-- An interrupt or abort taken to EL3, with the handler's address where rule R85 gives one (rules R104 to R106,
  R142). Safe. -/
  | takenToEL3 (src : Source) (handler : Option Word)
  /-- A step's fetch of a byte nothing was placed in (log 3). Safe. -/
  | fetchUnwritten (addr : Word)
deriving DecidableEq, Repr

/-- The refusals: what the spec declines to answer. Every one is SAFE. -/
inductive Refusal where
  /-- `exec` of an instruction that has no meaning yet. Safe. -/
  | notModelled (mnemonic : String)
  /-- A step's fetch of a word "not described by any source" (rule R64, D13). Safe. -/
  | notDescribed (w : InstrWord)
  /-- An access at EL3 with `pc >= 2^64 - 4`: no wrap rule is given, so D7 refuses it. Safe. -/
  | pcAtTop
  /-- A predicate asked of an implementation without EL3 (D3, U16). Safe. -/
  | noEL3
  /-- A predicate that would need a list lost from the source (D14, U11; rules R84, R104). Safe. -/
  | lostList (src : Source)
  /-- An attempted operation on a feature the implementation lacks (rule R21; log 9). Safe. -/
  | absentFeature (op : Operation)
  /-- `PSTATE.EL` is set to a level the implementation lacks (rule R145). Safe. -/
  | absentLevel (el : EL)
  /-- A fetch at EL2 in Secure state while Secure EL2 is disabled: there is no such EL2 (rule R108). Safe. -/
  | noUsableEL2
deriving DecidableEq, Repr

/-! ## The state -/

/-- The state of the machine. -/
structure State where
  /-- The implementation; no step changes it. -/
  params : Params
  /-- SCR_EL3 (rule R10). -/
  scr : Word
  /-- `x[0]` to `x[30]` (rule R46, D6). -/
  x : Vector Word 31
  /-- The program counter (rule R72, D7). -/
  pc : Word
  /-- `PSTATE.EL` (rule R44). -/
  el : EL
  /-- `PSTATE.A` (rule R45). -/
  a : Bool
  /-- The inputs of rule R47. -/
  inputs : Inputs
  /-- The marks of memory (rule R54). -/
  marks : List Region
  /-- The asserted interrupts (rule R142). -/
  asserted : Asserted
  /-- The hidden TLB copies (rule R52). -/
  held : TlbHeld
  /-- The values of SCR_EL3 written over since the last Context synchronization event, oldest first (rule R56, D12). -/
  window : List Word
  /-- The instruction memory (log 3). -/
  mem : List Host.Cell
  /-- The model's own: how many free values have been drawn (log 6). -/
  draws : Nat
  /-- The model's own: what the environment does next, oldest first (log 10). -/
  events : List Event
  /-- The model's own: the answer to the last attempted operation (log 10). -/
  answer : Option Answer
  /-- The premise of D20: SCR_EL3 was written since reset. -/
  writtenSinceReset : Bool
deriving DecidableEq, Repr

/-- The inputs before the environment has supplied any. DESIGN CHOICE, unsafe (log 5). That `aarch32` is false for every
implementation, `resetIntoAArch64` false among them, is a DESIGN CHOICE too, unsafe (log 27). -/
def Inputs.initial : Inputs where
  vbarEl3 := 0
  hcrEl2Api := false
  hcrEl2Apk := false
  hcrEl2Tlor := false
  wfe := ⟨false, false, false, false, false⟩
  wfi := ⟨false, false, false, false, false⟩
  scxtnum0 := 0
  scxtnum1 := 0
  scxtnum2 := 0
  aarch32 := false
  aarch32Scr := 0

/-- The machine right after reset, for an implementation `p` and a draw `u` of the UNKNOWN bits (rules R160 to R162).
The registers for which the source states no reset value have the values of log 5. Whether the level after reset uses
AArch32 is not linked to `resetIntoAArch64`: DESIGN CHOICE, unsafe (log 27). -/
def State.ofReset (p : Params) (u : Word) : State where
  params := p
  scr := resetScr p u
  x := Vector.replicate 31 0
  pc := 0
  el := p.resetLevel
  a := true
  inputs := Inputs.initial
  marks := []
  asserted := ⟨false, false, false⟩
  held := TlbHeld.none.add (eff p (resetScr p u))
  window := []
  mem := []
  draws := 1
  events := []
  answer := none
  writtenSinceReset := false

/-- The machine right after reset: `CFG_ALL` and the first draw of the UNKNOWN bits (logs 1, 4). -/
def State.reset : State := State.ofReset cfgAll (Config.unknownScr 0)

end Sys2Proof.Machine
end

