-- ==== Sys2Proof/Machine/Flags.lean ====
section
/-!
DEFINITION. The process state. No condition flag exists: neither access reads or writes one (rules R5, R70, R71). What
stands here is what the rules read of `PSTATE.EL` and `PSTATE.A` (rules R44, R45, R84, R142).
-/

namespace Sys2Proof.Machine

/-- Both accesses test `PSTATE.EL` before anything else, and nothing else (rule R74). -/
def State.atEL3 (s : State) : Bool := decide (s.el = .el3)

/-- `SErrorMaskedAtEL3` (rule R84): with `EA == 1`, NMEA 0 and `PSTATE.A` 1; with `EA == 0` it has no answer (D14). -/
def serrorMaskedAtEL3 (e : Controls) (a : Bool) : Option Bool := if e .ea then some (!e .nmea && a) else none

/-- Whether an interrupt is asserted (rule R142). -/
def Asserted.get (s : Asserted) : Interrupt → Bool
  | .fiq => s.fiq
  | .irq => s.irq
  | .serror => s.serror

/-- An interrupt becomes asserted or not (rule R142). -/
def Asserted.set (s : Asserted) (k : Interrupt) (b : Bool) : Asserted :=
  match k with
  | .fiq => { s with fiq := b }
  | .irq => { s with irq := b }
  | .serror => { s with serror := b }

end Sys2Proof.Machine
end

