-- ==== Sys2Proof/Machine/Memory.lean ====
section
/-!
DEFINITION. The instruction memory and the marks of memory. The spec's model has no memory (rule R50, D8); this one
exists only so that a step can fetch (rule R62, GK2; log 3).
-/

namespace Sys2Proof.Machine

/-- The canonical form of memory: addresses strictly rising and inside the address space. An unlisted byte has no
value, so no entry repeats one. -/
abbrev Memory.wf (m : List Host.Cell) : Prop :=
  m.Pairwise (fun c d => c.1 < d.1) ∧ ∀ c ∈ m, c.1 < 2 ^ 64

/-- The byte at an address, if one was placed there. -/
def readByte : List Host.Cell → Nat → Option Byte
  | [], _ => none
  | c :: m, a => if c.1 = a then some c.2 else readByte m a

/-- Inserts or replaces the entry of an address, keeping the order. -/
def insertByte : List Host.Cell → Nat → Byte → List Host.Cell
  | [], a, b => [(a, b)]
  | c :: m, a, b =>
    if a < c.1 then (a, b) :: c :: m
    else if a = c.1 then (a, b) :: m
    else c :: insertByte m a b

/-- Places a byte; an address outside the 64-bit space does not exist and takes none. -/
def writeByte (m : List Host.Cell) (a : Nat) (b : Byte) : List Host.Cell :=
  if a < 2 ^ 64 then insertByte m a b else m

/-- Places bytes one after the other from an address. -/
def writeBytes (m : List Host.Cell) (a : Nat) : List Byte → List Host.Cell
  | [] => m
  | b :: bs => writeBytes (writeByte m a b) (a + 1) bs

/-- Reads `n` bytes from an address, if every one has a value. -/
def readBytes (m : List Host.Cell) (a : Nat) : Nat → Option (List Byte)
  | 0 => some []
  | n + 1 =>
    match readByte m a, readBytes m (a + 1) n with
    | some b, some bs => some (b :: bs)
    | _, _ => none

/-- Whether a region and the `n` bytes from `a` have a byte in common; an empty region and an access of no byte have none.
One common byte is enough (DESIGN CHOICE, log 12). -/
def Region.meets (r : Region) (a n : Nat) : Bool :=
  decide (0 < r.size) && decide (0 < n) && decide (r.base < a + n) && decide (a < r.base + r.size)

/-- Whether a region with the given mark has a byte in common with the `n` bytes from `a`. -/
def marked (marks : List Region) (k : Mark) (a n : Nat) : Bool := marks.any fun r => decide (r.mark = k) && r.meets a n

/-- The mark that makes memory Non-secure for SIF: the first text of the field with ARMv8.4-SecEL2, the second without
(rule R101, conflict C3). -/
def nonSecureMark (p : Params) : Mark := if p.haveSecEL2 then .stage1NonSecure else .nonSecure

end Sys2Proof.Machine
end

