-- ==== Sys2Proof/Machine/Operands.lean ====
section
/-!
DEFINITION. The one operand form of the instructions: the general-purpose register `X[t]` (rule R63, decision D6), and
the view of the AArch32 register SCR (rule R13).
-/

namespace Sys2Proof.Machine

/-- Reads `X[t]`; `t = 31` names the zero register, which reads 0 (rule R63, D6). -/
def State.readX (s : State) (t : Nat) : Word := if h : t < 31 then s.x[t] else 0

/-- Writes `X[t]`; `t = 31` names the zero register, which discards the value (rule R63, D6). -/
def State.writeX (s : State) (t : Nat) (v : Word) : State :=
  if h : t < 31 then { s with x := s.x.set t v } else s

/-- What the AArch32 register SCR holds: SCR_EL3[31:0] where the implementation maps the two onto one storage, else its
own storage (rule R13). -/
def State.aarch32Scr (s : State) : BitVec 32 :=
  if s.params.mapsToAArch32SCR then s.scr.truncate 32 else s.inputs.aarch32Scr

end Sys2Proof.Machine
end

