-- ==== Sys2Proof/Machine/Ops.lean ====
section
/-!
DEFINITION. The shared operations: completing an access, writing SCR_EL3, resetting, the draws of free values, and
raising an exception.
-/

namespace Sys2Proof.Machine

/-! ## Exceptions -/

/-- `raise`: the one way an exception leaves the machine. The spec describes no entry: nothing is saved, no mask changes
and no vector but that of R85 is given, so the run ends in a named fault and the state is unchanged (rules R140, R141,
R144, D16). There is no return (D16). -/
def raise {α : Type} (f : Fault) : Host.Outcome α Fault Refusal := .fault f

/-- The Exception level an exception is taken to, where the spec states it (60_exceptions.md section 1, rule R144). -/
def Fault.target : Fault → Option EL
  | .trapToEL3 _ => some .el3
  | .trapToSecureEL2 _ _ => some .el2
  | .takenToEL3 _ _ => some .el3
  | .undefined _ => none
  | .fetchNotPermitted _ => none
  | .secureMemoryDenied _ => none
  | .fetchUnwritten _ => none

/-- The syndrome class reported, where the spec states it: only the traps to Secure EL2 have one (60_exceptions.md
section 1, "Cause codes"). -/
def Fault.syndrome : Fault → Option (BitVec 6)
  | .trapToSecureEL2 _ ec => some ec
  | .trapToEL3 _ => none
  | .takenToEL3 _ _ => none
  | .undefined _ => none
  | .fetchNotPermitted _ => none
  | .secureMemoryDenied _ => none
  | .fetchUnwritten _ => none

/-! ## Completing an access -/

/-- A completed access adds 4 to the pc; at `pc >= 2^64 - 4` no wrap rule is given and it is refused (rule R72, D7). -/
def State.completed (s : State) : Host.Outcome State Fault Refusal :=
  if 2 ^ 64 - 4 ≤ s.pc.toNat then .refused .pcAtTop else .next { s with pc := s.pc + 4 }

/-! ## SCR_EL3 -/

/-- Writes SCR_EL3: all 64 bits in one step, made legal (rules R43, R71). The value written over stays visible until
the next Context synchronization event (R56), TLB copies of the old values stay (R52), and the premise of D20 holds. -/
def State.writeScr (s : State) (v : Word) : State :=
  { s with
    scr := legal s.params v
    window := s.window ++ [s.scr]
    held := s.held.add (eff s.params (legal s.params v))
    writtenSinceReset := true }

/-- The event `Reset` (rules R160 to R162): the machine of `State.ofReset` with a new draw, but for what lies outside
the PE (inputs, marks, asserted interrupts, memory, events) and the TLB copies, which no rule says a reset removes.
`inputs.aarch32` stays as it was, whatever `resetIntoAArch64` says: DESIGN CHOICE, unsafe (log 27). -/
def State.doReset (s : State) : State :=
  let scr' := resetScr s.params (Config.unknownScr s.draws)
  { s with
    scr := scr'
    x := Vector.replicate 31 0
    pc := 0
    el := s.params.resetLevel
    a := true
    held := s.held.add (eff s.params scr')
    window := []
    draws := s.draws + 1
    answer := none
    writtenSinceReset := false }

/-- The event `CtxSync`: from here only the new value governs (rule R56, D12). -/
def State.ctxSync (s : State) : State := { s with window := [] }

/-- The values held in the TLB once it is invalidated: those of the values still visible (rule R52; log 8). -/
def heldAfterInvalidate (p : Params) (scr : Word) (window : List Word) : TlbHeld :=
  window.foldl (fun h w => h.add (eff p w)) (TlbHeld.none.add (eff p scr))

/-- TLB invalidation removes the copies (rule R52; PRESUMED GK4, log 8). -/
def State.tlbInvalidate (s : State) : State :=
  { s with held := heldAfterInvalidate s.params s.scr s.window }

/-! ## The controls as a predicate sees them -/

/-- The stored value that governs: SCR_EL3, or a free choice among it and the values still visible (rule R56, D12). -/
def State.governing (s : State) (choice : Nat) : Word :=
  match s.window with
  | [] => s.scr
  | _ :: _ => ((s.window ++ [s.scr])[choice % (s.window.length + 1)]?).getD s.scr

/-- A use of a cacheable field: the current value, or a free choice where the other value is held too (rule R52). -/
def Held.pick (h : Held) (cur choice : Bool) : Bool :=
  if (if cur then h.zero else h.one) then choice else cur

/-- A use of a cacheable field by the implementation's `TLBModel`: under `none` the current value (rule R52, D9). -/
def copyOr (p : Params) (h : Held) (cur choice : Bool) : Bool :=
  match p.tlbModel with
  | .none => cur
  | .draw => h.pick cur choice

/-- The controls one evaluation sees, of the visible value `v`: EEL2 is read of the visible value `w`, since
`SecureEL2Enabled` is a predicate of its own, and each cacheable field may follow a TLB copy. ST and RW, whose Effective
values read EEL2 (rules R34, R35), read it as the evaluation sees it (rules R52, R56; logs 7, 8). -/
def seen (p : Params) (h : TlbHeld) (v w : Word) (choice : Nat) : Controls :=
  let eel2 := copyOr p h.eel2 (effEEL2 p w) (choice.testBit 18)
  fun f =>
    match f with
    | .eel2 => eel2
    | .st => effSTWith eel2 v
    | .rw => copyOr p h.rw (effRWWith p eel2 v) (choice.testBit 10)
    | .ata => copyOr p h.ata (eff p v .ata) (choice.testBit 26)
    | .sif => copyOr p h.sif (eff p v .sif) (choice.testBit 9)
    | g => eff p v g

/-- The controls of every evaluation at one use. -/
abbrev View := Evaluation → Controls

/-- The controls as each evaluation sees them, by the free choices of the current draw. -/
def State.controls (s : State) : View := fun r =>
  seen s.params s.held (s.governing (Config.choice s.draws (.governing r)))
    (s.governing (Config.choice s.draws (.secureEL2 r))) (Config.choice s.draws (.copies r))

/-- The free choice between two outcomes without a stated priority (D17). -/
def State.rivalPick (s : State) : Bool := (Config.choice s.draws .rival).testBit 0

/-- The free choice between an armed WFE or WFI trap and completing (rule R97). -/
def State.trapPick (s : State) : Bool := (Config.choice s.draws .trap).testBit 0

/-- The state after a use of free values. -/
def State.drawn (s : State) : State := { s with draws := s.draws + 1 }

end Sys2Proof.Machine
end

