-- ==== Sys2Proof/Machine/SysRegMove.lean ====
section
/-!
DEFINITION. The System register moves, the one family of the opcode table (format sysreg_move): the two accesses of
SCR_EL3.
-/

namespace Sys2Proof.Machine

/-- `MRS Xt, SCR_EL3` (rule R70): at EL3 the stored value of SCR_EL3 goes to `X[t]`, below EL3 the access is UNDEFINED.
No flag, no side effect on SCR_EL3. -/
def execMrsScr (t : Nat) (s : State) : Host.Outcome State Fault Refusal :=
  if s.atEL3 then (s.writeX t s.scr).completed else raise (.undefined .scrAccess)

/-- `MSR SCR_EL3, Xt` (rule R71): at EL3 SCR_EL3 takes the legal form of `X[t]`, below EL3 the access is UNDEFINED. No
flag, every 64-bit value is accepted. -/
def execMsrScr (t : Nat) (s : State) : Host.Outcome State Fault Refusal :=
  if s.atEL3 then (s.writeScr (s.readX t)).completed else raise (.undefined .scrAccess)

end Sys2Proof.Machine
end

