-- ==== Sys2Proof/Machine/Dispatch.lean ====
section
/-!
DEFINITION. One arm per instruction.
-/

namespace Sys2Proof.Machine

def exec (i : Instr) (s : State) : Host.Outcome State Fault Refusal :=
  match i with
  | .mrsScr t => Sys2Proof.Machine.execMrsScr t s
  | .msrScr t => Sys2Proof.Machine.execMsrScr t s

end Sys2Proof.Machine
end

