-- ==== Sys2Proof/Machine/Effects.lean ====
section
/-!
DEFINITION. What each field makes the PE do: the predicates of 41_field_effects.md, one definition per rule, as functions
of the Effective values and of the named inputs. `secure` and `aarch32` are the common inputs of that file.
-/

namespace Sys2Proof.Machine

/-- "EL1 and EL2", the levels of rules R83, R92, R93, R94. -/
def atEL1orEL2 : EL → Bool
  | .el0 => false
  | .el1 => true
  | .el2 => true
  | .el3 => false

/-- "At any Exception level lower than EL3" (rules R80, R95, R96, R104 to R106). -/
def belowEL3 : EL → Bool
  | .el0 => true
  | .el1 => true
  | .el2 => true
  | .el3 => false

/-! ## Security state and Execution state of the levels -/

/-- Whether a level is in Secure state; `none` for EL2 where there is no usable EL2 in Secure state (rules R107, R108).
EL3 is always Secure (PRESUMED GK8; log 11). -/
def secureAt (e : Controls) : EL → Option Bool
  | .el0 => some (!e .ns)
  | .el1 => some (!e .ns)
  | .el2 => if e .ns then some false else if e .eel2 then some true else none
  | .el3 => some true

/-- Whether EL2 can be entered below EL3 with these controls: the implementation has it, and it is Non-secure or Secure
EL2 is enabled (rules R102, R108). -/
def usableEL2 (p : Params) (e : Controls) : Bool := p.haveEL2 && (e .ns || e .eel2)

/-- Whether a level uses AArch32, where RW and the rules say it (rules R100, R108; the "next lower level" below EL3 is
EL1 where there is no usable EL2, vectors X3 and X4); `none` where the surviving text does not say. -/
def aarch32At (p : Params) (e : Controls) : EL → Option Bool
  | .el3 => none
  | .el2 => if p.haveEL2 then (if e .eel2 && !e .ns then some false else some (!e .rw)) else none
  | .el1 => if !e .rw then some true else if usableEL2 p e then none else some false
  | .el0 => if !e .rw then some true else none

/-! ## ATA -/

/-- `TagAccessPrevented` (rule R80). -/
def tagAccessPrevented (e : Controls) (el : EL) : Bool := belowEL3 el && !e .ata

/-- The four things that hold while access to Allocation Tags is prevented (rule R81). -/
def preventedTagAnswer : TagUse → Answer
  | .loadStoreData => .unchecked
  | .loadTag => .tagReadsZero
  | .storeTag => .tagWriteIgnored
  | .insertLogicalTag => .logicalTagFromZero
  | .invalidateTags => .cleanAndInvalidate

/-! ## EnSCXT -/

/-- The levels whose access to an SCXTNUM register EnSCXT controls (rule R82). -/
def scxtListed : EL → ScxtReg → Bool
  | .el0, .scxtnumEl0 => true
  | .el1, .scxtnumEl0 => true
  | .el2, .scxtnumEl0 => true
  | .el1, .scxtnumEl1 => true
  | .el2, .scxtnumEl1 => true
  | .el2, .scxtnumEl2 => true
  | _, _ => false

/-- `TrapSCXT` (rule R82). -/
def trapSCXT (e : Controls) (el : EL) (r : ScxtReg) : Bool := !e .enscxt && scxtListed el r

/-- The value the PE uses for an SCXTNUM register: 0 while EnSCXT is 0 (rule R82). -/
def scxtValue (e : Controls) (v : Word) : Word := if e .enscxt then v else 0

/-- The stored value of an SCXTNUM register. -/
def Inputs.scxtnum (i : Inputs) : ScxtReg → Word
  | .scxtnumEl0 => i.scxtnum0
  | .scxtnumEl1 => i.scxtnum1
  | .scxtnumEl2 => i.scxtnum2

/-! ## FIEN -/

/-- `TrapFaultInjection`, for the three ERXPFG registers (rule R83). -/
def trapFaultInjection (e : Controls) (el : EL) : Bool := !e .fien && atEL1orEL2 el

/-! ## EASE -/

/-- The handler of a synchronous External abort taken to EL3 from a level: `VBAR_EL3` plus the SError offset where EASE
is 1 and the synchronous offset where it is 0 (rule R85). The sum is taken modulo 2^64 (PRESUMED, log 26). -/
def abortHandler (e : Controls) (vbar : Word) (el : EL) (aarch32 : Bool) : Word :=
  vbar + (if e .ease then Config.serrorVectorOffset el aarch32 else Config.syncVectorOffset el aarch32)

/-! ## EEL2 -/

/-- The registers defined by ARMv8.4-SecEL2 are UNDEFINED and its timers disabled (rules R86, R87). -/
def secEL2Disabled (e : Controls) : Bool := !e .eel2

/-- An operation of the lost lists is trapped: attempted in Secure EL1 using AArch32 (rules R88 to R90). -/
def trapAArch32SecureOp (el : EL) (secure aarch32 : Bool) : Bool := decide (el = .el1) && secure && aarch32

/-- The class in `ESR_EL2.EC` of a trap to Secure EL2 (rules R88, R89). The source gives the two values and no width:
6 bits is PRESUMED (log 26). -/
def LostList.ec : LostList → BitVec 6
  | .ec3 => 0x3
  | .ec0 => 0x0

/-- Where such an operation is trapped to: Secure EL2 when it is enabled, else EL3 (rule R90). -/
def aarch32SecureOpFault (e : Controls) (l : LostList) : Fault :=
  if e .eel2 then .trapToSecureEL2 (.aarch32SecureOp l) l.ec else .trapToEL3 (.aarch32SecureOp l)

/-! ## API and APK -/

/-- `TrapPAuthInstr` (rule R91); `toEL2`: trapped to EL2 by `HCR_EL2.API`. -/
def trapPAuthInstr (e : Controls) (el : EL) (enabled toEL2 : Bool) : Bool :=
  !e .api && belowEL3 el && enabled && !toEL2

/-- `TrapPAuthKey`, for a key register (rule R92); `toEL2`: trapped to EL2 by `HCR_EL2.APK` or by another trap. -/
def trapPAuthKey (e : Controls) (el : EL) (toEL2 : Bool) : Bool := !e .apk && atEL1orEL2 el && !toEL2

/-! ## TERR -/

/-- `ErrorRecordRegs` (rule R93): the first list for AArch64, the second for AArch32, each with its last registers only
with ARMv8.4-RAS; both lists at EL1 and EL2 (conflict C7). -/
def errorRecordReg (ras84 aarch32 : Bool) : ErrorReg → Bool
  | .erridrEl1 => !aarch32
  | .errselrEl1 => !aarch32
  | .erxaddrEl1 => !aarch32
  | .erxctlrEl1 => !aarch32
  | .erxfrEl1 => !aarch32
  | .erxmisc0El1 => !aarch32
  | .erxmisc1El1 => !aarch32
  | .erxstatusEl1 => !aarch32
  | .erxmisc2El1 => !aarch32 && ras84
  | .erxmisc3El1 => !aarch32 && ras84
  | .erridr => aarch32
  | .errselr => aarch32
  | .erxaddr => aarch32
  | .erxaddr2 => aarch32
  | .erxctlr => aarch32
  | .erxctlr2 => aarch32
  | .erxfr => aarch32
  | .erxfr2 => aarch32
  | .erxmisc0 => aarch32
  | .erxmisc1 => aarch32
  | .erxmisc2 => aarch32
  | .erxmisc3 => aarch32
  | .erxstatus => aarch32
  | .erxmisc4 => aarch32 && ras84
  | .erxmisc5 => aarch32 && ras84
  | .erxmisc6 => aarch32 && ras84
  | .erxmisc7 => aarch32 && ras84

/-- `TrapErrorRecord` (rule R93). -/
def trapErrorRecord (e : Controls) (el : EL) (ras84 aarch32 : Bool) (r : ErrorReg) : Bool :=
  e .terr && atEL1orEL2 el && errorRecordReg ras84 aarch32 r

/-! ## TLOR -/

/-- `TrapLOR`, for the five LOR registers (rule R94): UNDEFINED and the EL2 trap both come first. -/
def trapLOR (e : Controls) (el : EL) (isUndefined toEL2 : Bool) : Bool :=
  e .tlor && atEL1orEL2 el && !isUndefined && !toEL2

/-! ## TWE and TWI -/

/-- Trapped by one of the five controls of rule R95 or R96. -/
def LowerTraps.any (t : LowerTraps) : Bool := t.sctlrN || t.hcr || t.sctlrEl1N || t.sctlrEl2N || t.hcrEl2

/-- `TrapWFE` and `TrapWFI` with the control's value `c` (rules R95, R96), and the condition code check that AArch32
state adds (rule R98). -/
def trapWfx (c : Bool) (el : EL) (wouldSleep lower aarch32 passes : Bool) : Bool :=
  c && belowEL3 el && wouldSleep && !lower && (!aarch32 || passes)

/-! ## ST -/

/-- `TrapSecureTimer`, for the three CNTPS registers (rule R99). -/
def trapSecureTimer (e : Controls) (el : EL) (secure aarch32 : Bool) : Bool :=
  !e .st && decide (el = .el1) && secure && !aarch32

/-! ## SIF and NS -/

/-- `SecureFetchForbidden` (rule R101). -/
def secureFetchForbidden (e : Controls) (secure fromNonSecure : Bool) : Bool := e .sif && secure && fromNonSecure

/-- "Memory accesses from those Exception levels cannot access Secure memory" (rule R107). -/
def secureMemoryForbidden (e : Controls) (el : EL) (toSecure : Bool) : Bool := e .ns && belowEL3 el && toSecure

/-! ## HCE and SMD -/

/-- `HVCUndefined` (rule R102). -/
def hvcUndefined (e : Controls) (el : EL) (secure : Bool) : Bool :=
  !e .hce || decide (el = .el0) || (decide (el = .el1) && secure && !e .eel2)

/-- `SMCUndefined` (rule R103). -/
def smcUndefined (e : Controls) (el : EL) : Bool := decide (el = .el0) || e .smd

/-! ## EA, FIQ, IRQ -/

/-- What the routing says of an interrupt or abort (rule R142). -/
inductive Routing where
  | toEL3 | pending | notToEL3 | notStated
deriving DecidableEq, Repr

/-- The routing function of rule R142, from rules R84 and R104 to R106. The mask of rule R84 is an evaluation of its own:
where it sees EA = 0 it has no answer (D14). -/
def route (w : View) (el : EL) (a : Bool) : Source → Routing
  | .interrupt .fiq => if w .own .fiq then .toEL3 else if belowEL3 el then .notToEL3 else .pending
  | .interrupt .irq => if w .own .irq then .toEL3 else if belowEL3 el then .notToEL3 else .pending
  | .interrupt .serror =>
    if w .own .ea then
      if belowEL3 el then .toEL3
      else
        match serrorMaskedAtEL3 (w .masking) a with
        | some true => .pending
        | some false => .toEL3
        | none => .notStated
    else if belowEL3 el then .notToEL3 else .notStated
  | .externalAbort _ => if w .own .ea then .toEL3 else if belowEL3 el then .notToEL3 else .notStated

end Sys2Proof.Machine
end

