-- ==== Sys2Proof/Machine/Judge.lean ====
section
/-!
DEFINITION. The outcome of an attempted operation and of an offered interrupt: the predicates of Effects.lean put to the
operation at the current level, with the priorities of rule R143 and the refusals of D3 and D14.
-/

namespace Sys2Proof.Machine

/-- Everything one use of the controls depends on: the implementation, the controls as they are seen, the level, the
inputs, the marks of memory, whether a rival control applies, and the free choices. -/
structure Attempt where
  params : Params
  el : EL
  inputs : Inputs
  marks : List Region
  rival : Bool
  rivalPick : Bool
  trapPick : Bool
deriving DecidableEq, Repr

/-- Whether the level uses AArch32: as the rules say, else as the environment supplies (rule R100). -/
def Attempt.aarch32 (c : Attempt) (w : View) : Bool := (aarch32At c.params (w .execution) c.el).getD c.inputs.aarch32

/-- Whether the level is in Secure state (rule R107). -/
def Attempt.secure (c : Attempt) (w : View) : Bool := decide (secureAt (w .security) c.el = some true)

/-- The operations an implementation without EL3 is still asked about: those that depend on the four Effective values
with an "If EL3 is not implemented" clause alone (D3; log 14). -/
def Operation.withoutEL3 : Operation → Bool
  | .faultInjection _ => true
  | .secEL2Register => true
  | .secEL2Timer => true
  | .pauthInstr _ => true
  | .pauthKey => true
  | .tag _ => false
  | .scxtAccess _ => false
  | .scxtUse _ => false
  | .aarch32SecureOp _ => false
  | .errorRecord _ => false
  | .lor _ _ => false
  | .wfe _ _ => false
  | .wfi _ _ => false
  | .secureTimer _ => false
  | .hvc => false
  | .smc => false
  | .fetch _ => false
  | .access _ _ => false

/-- Whether the implementation has what the operation uses (rule R21; log 9). -/
def Operation.available (p : Params) : Operation → Bool
  | .tag _ => p.haveMemTag
  | .scxtAccess _ => p.haveCSV2
  | .scxtUse _ => p.haveCSV2
  | .faultInjection _ => p.haveFaultInjection
  | .aarch32SecureOp _ => p.haveAArch32EL1
  | .pauthInstr _ => p.havePAuth
  | .pauthKey => p.havePAuth
  | .errorRecord _ => p.haveRAS
  | .lor _ _ => p.haveLOR
  | .secEL2Register => true
  | .secEL2Timer => true
  | .wfe _ _ => true
  | .wfi _ _ => true
  | .secureTimer _ => true
  | .hvc => true
  | .smc => true
  | .fetch _ => true
  | .access _ _ => true

/-- A fault that a predicate alone raises: its rule names every control that comes before it, or admits none (rules R91,
R92, R95, R96, R102, R103, R107). Nothing happens when it is false (D22). -/
def decided (applies : Bool) (f : Fault) : Host.Outcome Answer Fault Refusal :=
  if applies then raise f else .next .notAffected

/-- A fault that a predicate raises: nothing happens when the predicate is false (D22), and where a rival control
applies as well, either outcome is taken. For EnSCXT, FIEN, TERR and ST, and for an SMC at EL1 and EL2, no priority is
stated (rules R103, R143, D17); for ARMv8.4-SecEL2 registers, the AArch32 operations and TLOR the rival is the model's own
choice (DESIGN CHOICE, log 18). -/
def contested (c : Attempt) (applies : Bool) (f : Fault) : Host.Outcome Answer Fault Refusal :=
  if applies then
    if c.rival && !c.rivalPick then .next .claimedElsewhere else raise f
  else .next .notAffected

/-- A WFE or WFI: an armed trap is taken or the instruction completes as a no-op, and nothing else (rule R97). -/
def judgeWfx (c : Attempt) (op : Operation) (armed : Bool) : Host.Outcome Answer Fault Refusal :=
  if armed then
    if c.trapPick then raise (.trapToEL3 op) else .next .completesAsNop
  else .next .notAffected

/-- An SMC: UNDEFINED by its rule alone at EL0 and EL3, while at EL1 and EL2 the rule does not state whether a trap of SMC
to EL2 by another control comes first (rule R103, D17). -/
def judgeSmc (c : Attempt) (e : Controls) : Host.Outcome Answer Fault Refusal :=
  if atEL1orEL2 c.el then contested c (smcUndefined e c.el) (.undefined .smc)
  else decided (smcUndefined e c.el) (.undefined .smc)

/-- A fetch of four bytes: NS forbids Secure memory to a Non-secure level (R107), SIF forbids Non-secure memory to a
Secure one (R101). A fetch is from marked memory when one of its four bytes is marked (DESIGN CHOICE, log 12). -/
def judgeFetch (c : Attempt) (w : View) (addr : Word) : Host.Outcome Answer Fault Refusal :=
  if secureMemoryForbidden (w .security) c.el (marked c.marks .secure addr.toNat 4) then raise (.secureMemoryDenied addr)
  else if marked c.marks (nonSecureMark c.params) addr.toNat 4 && w .own .sif then
    match secureAt (w .security) c.el with
    | none => .refused .noUsableEL2
    | some sec => if secureFetchForbidden (w .own) sec true then raise (.fetchNotPermitted addr) else .next .notAffected
  else .next .notAffected

/-- The outcome of an operation the implementation has, with EL3 where D3 asks for it. -/
def judgeOp (c : Attempt) (w : View) : Operation → Host.Outcome Answer Fault Refusal
  | .tag u => .next (if tagAccessPrevented (w .own) c.el then preventedTagAnswer u else .notAffected)
  | .scxtAccess r => contested c (trapSCXT (w .own) c.el r) (.trapToEL3 (.scxtAccess r))
  | .scxtUse r => .next (.registerValue (scxtValue (w .own) (c.inputs.scxtnum r)))
  | .faultInjection r => contested c (trapFaultInjection (w .own) c.el) (.trapToEL3 (.faultInjection r))
  | .secEL2Register => contested c (secEL2Disabled (w .own)) (.undefined .secEL2Register)
  | .secEL2Timer => .next (if secEL2Disabled (w .own) then .timersDisabled else .notAffected)
  | .aarch32SecureOp l =>
    contested c (trapAArch32SecureOp c.el (c.secure w) (c.aarch32 w)) (aarch32SecureOpFault (w .own) l)
  | .pauthInstr enabled =>
    decided (trapPAuthInstr (w .own) c.el enabled c.inputs.hcrEl2Api) (.trapToEL3 (.pauthInstr enabled))
  | .pauthKey =>
    decided (trapPAuthKey (w .own) c.el (c.inputs.hcrEl2Apk || c.rival)) (.trapToEL3 .pauthKey)
  | .errorRecord r =>
    contested c (trapErrorRecord (w .own) c.el c.params.haveRAS84 (c.aarch32 w) r) (.trapToEL3 (.errorRecord r))
  | .lor r u => contested c (trapLOR (w .own) c.el u c.inputs.hcrEl2Tlor) (.trapToEL3 (.lor r u))
  | .wfe ws cc => judgeWfx c (.wfe ws cc) (trapWfx (w .own .twe) c.el ws c.inputs.wfe.any (c.aarch32 w) cc)
  | .wfi ws cc => judgeWfx c (.wfi ws cc) (trapWfx (w .own .twi) c.el ws c.inputs.wfi.any (c.aarch32 w) cc)
  | .secureTimer r =>
    contested c (trapSecureTimer (w .own) c.el (c.secure w) (c.aarch32 w)) (.trapToEL3 (.secureTimer r))
  | .hvc => decided (hvcUndefined (w .own) c.el (c.secure w)) (.undefined .hvc)
  | .smc => judgeSmc c (w .own)
  | .fetch addr => judgeFetch c w addr
  | .access addr n =>
    decided (secureMemoryForbidden (w .security) c.el (marked c.marks .secure addr.toNat n)) (.secureMemoryDenied addr)

/-- The outcome of an attempted operation. -/
def judge (c : Attempt) (w : View) (op : Operation) : Host.Outcome Answer Fault Refusal :=
  if op.available c.params then
    if c.params.haveEL3 || op.withoutEL3 then judgeOp c w op else .refused .noEL3
  else .refused (.absentFeature op)

/-- The attempt the state makes of an operation. -/
def State.attempt (s : State) (rival : Bool) : Attempt where
  params := s.params
  el := s.el
  inputs := s.inputs
  marks := s.marks
  rival := rival
  rivalPick := s.rivalPick
  trapPick := s.trapPick

/-- The handler's address of something taken to EL3: stated for a synchronous External abort alone (rule R85). -/
def handlerOf (c : Attempt) (w : View) : Source → Option Word
  | .externalAbort true => some (abortHandler (w .vector) c.inputs.vbarEl3 c.el (c.aarch32 w))
  | .externalAbort false => none
  | .interrupt _ => none

/-- The outcome of an offered interrupt or of an External abort (rule R142); without EL3 the routing is refused (D3). -/
def judgeSource (c : Attempt) (w : View) (a : Bool) (src : Source) : Host.Outcome Answer Fault Refusal :=
  if c.params.haveEL3 then
    match route w c.el a src with
    | .toEL3 => raise (.takenToEL3 src (handlerOf c w src))
    | .pending => .next .staysPending
    | .notToEL3 => .next .notTakenToEL3
    | .notStated => .refused (.lostList src)
  else .refused .noEL3

end Sys2Proof.Machine
end

