-- ==== Sys2Proof/Machine/Events.lean ====
section
/-!
DEFINITION. What one event of the environment does to the machine (92_eei_decisions.md, agents). No event moves the pc
but a reset: only the two accesses do (95_test_vectors.md, program P2).
-/

namespace Sys2Proof.Machine

/-- The answer is recorded and the draws are spent; a fault or a refusal passes through. -/
def State.answered (s : State) : Host.Outcome Answer Fault Refusal → Host.Outcome State Fault Refusal
  | .next a => .next { s.drawn with answer := some a }
  | .fault f => .fault f
  | .refused r => .refused r

/-- The environment sets `PSTATE.EL` to a level the implementation has (rules R44, R145). -/
def State.setLevel (s : State) (el : EL) : Host.Outcome State Fault Refusal :=
  if s.params.hasLevel el then .next { s with el := el } else .refused (.absentLevel el)

/-- An interrupt is offered: one that is not asserted is no interrupt (rule R142). -/
def State.offered (s : State) (k : Interrupt) : Host.Outcome State Fault Refusal :=
  if s.asserted.get k then s.answered (judgeSource (s.attempt false) s.controls s.a (.interrupt k))
  else .next { s with answer := some .notAffected }

/-- One event of the environment. -/
def deliver (ev : Event) (s : State) : Host.Outcome State Fault Refusal :=
  match ev with
  | .reset => .next s.doReset
  | .ctxSync => .next s.ctxSync
  | .tlbInvalidate => .next s.tlbInvalidate
  | .setX n v => .next (s.writeX n v)
  | .setEL el => s.setLevel el
  | .setA b => .next { s with a := b }
  | .setInputs i => .next { s with inputs := i }
  | .setMarks m => .next { s with marks := m }
  | .attempt op rival => s.answered (judge (s.attempt rival) s.controls op)
  | .assert k => .next { s with asserted := s.asserted.set k true }
  | .deassert k => .next { s with asserted := s.asserted.set k false }
  | .offer k => s.offered k
  | .externalAbort sync => s.answered (judgeSource (s.attempt false) s.controls s.a (.externalAbort sync))

end Sys2Proof.Machine
end

