-- ==== Sys2Proof/Machine/Fetch.lean ====
section
/-!
DEFINITION. Fetching the next instruction: the two rules on instruction fetch (R101, R107), the four bytes at the pc
(rule R62), the decoder.
-/

namespace Sys2Proof.Machine

/-- Whether a mark stands on the four bytes at the pc. -/
def State.fetchMarked (s : State) : Bool := s.marks.any fun r => r.meets s.pc.toNat 4

/-- The fetch as SIF and NS see it (rules R101, R107). Memory without a mark falls under neither rule, so nothing is
drawn for it. -/
def State.fetchChecked (s : State) : Host.Outcome State Fault Refusal :=
  if s.fetchMarked then
    match judge (s.attempt false) s.controls (.fetch s.pc) with
    | .next _ => .next s.drawn
    | .fault f => .fault f
    | .refused r => .refused r
  else .next s

/-- The instruction the four bytes at the pc are; bytes nobody placed and words the spec does not describe stop the
machine (logs 2, 3; rule R64, D13). -/
def fetchDecode (m : List Host.Cell) (pc : Word) : Host.Outcome Instr Fault Refusal :=
  match readBytes m pc.toNat 4 with
  | none => .fault (.fetchUnwritten pc)
  | some bs =>
    match decode bs with
    | .ok (i, _) => .next i
    | .error .truncated => .fault (.fetchUnwritten pc)
    | .error (.notDescribed w) => .refused (.notDescribed w)

/-- The next instruction, and the state in which it runs. -/
def fetch (s : State) : Host.Outcome (Instr × State) Fault Refusal :=
  match s.fetchChecked with
  | .fault f => .fault f
  | .refused r => .refused r
  | .next s' =>
    match fetchDecode s.mem s.pc with
    | .fault f => .fault f
    | .refused r => .refused r
    | .next i => .next (i, s')

end Sys2Proof.Machine
end

