-- ==== Sys2Proof/Machine/Step.lean ====
section
/-!
DEFINITION. One step: the environment's next event if there is one, else the next instruction.
-/

namespace Sys2Proof.Machine

/-- One step of the machine. -/
def step (s : State) : Host.Outcome State Fault Refusal :=
  match s.events with
  | ev :: rest => deliver ev { s with events := rest }
  | [] =>
    match fetch s with
    | .next (i, s') => exec i s'
    | .fault f => .fault f
    | .refused r => .refused r

/-- The state with an opcode-table word placed where the next step fetches: its bytes stand at the pc, no event comes
first, and no mark of memory stands on them (log 10). -/
def State.withFetchWord (s : State) (nbits w : Nat) : State :=
  { s with
    mem := writeBytes s.mem s.pc.toNat (bytesOfWord (tableWord nbits w))
    events := []
    marks := s.marks.filter fun r => !r.meets s.pc.toNat 4 }

end Sys2Proof.Machine
end

