-- ==== Sys2Proof/Safety.lean ====
section
/-!
DEFINITION. The terms claims are stated in: the invariant of the machine, what comes next in a state, and what its
evaluations see.
-/

namespace Sys2Proof.Machine

/-- The value `b` has been held. -/
def Held.has (h : Held) (b : Bool) : Bool := if b then h.one else h.zero

/-- The TLB's record of held values includes the Effective values of an SCR_EL3 value. -/
def TlbHeld.includes (h : TlbHeld) (e : Controls) : Bool :=
  h.ata.has (e .ata) && h.eel2.has (e .eel2) && h.rw.has (e .rw) && h.sif.has (e .sif)

/-- The invariant: memory in its canonical form, an implementation that resets into a level it has, SCR_EL3 and every
value still visible a legal stored value (R43), `PSTATE.EL` a level the implementation has (R145), and the TLB's record
including the current Effective values (R52). -/
structure MachineInv (s : State) : Prop where
  mem : Memory.wf s.mem
  params : s.params.wf = true
  scr : legal s.params s.scr = s.scr
  window : ∀ w ∈ s.window, legal s.params w = w
  el : s.params.hasLevel s.el = true
  held : s.held.includes (eff s.params s.scr) = true

/-! ## What comes next -/

/-- The next event attempts an operation; `rival`: another control applies to it too. -/
def Asks (s : State) (op : Operation) (rival : Bool) : Prop := ∃ rest, s.events = .attempt op rival :: rest

/-- An asserted interrupt is offered next, on an implementation with EL3. -/
structure Offers (s : State) (k : Interrupt) : Prop where
  haveEL3 : s.params.haveEL3 = true
  asserted : s.asserted.get k = true
  event : ∃ rest, s.events = .offer k :: rest

/-- An External abort comes next, on an implementation with EL3. -/
structure Aborts (s : State) (sync : Bool) : Prop where
  haveEL3 : s.params.haveEL3 = true
  event : ∃ rest, s.events = .externalAbort sync :: rest

/-- The step consumes its event and records an answer; nothing else changes but the counter of draws. -/
def Answers (s : State) (a : Answer) : Prop :=
  step s = .next { s with events := s.events.tail, draws := s.draws + 1, answer := some a }

/-- The step raises the fault, or, where a rival control is flagged, the operation may be claimed elsewhere instead. For
EnSCXT, FIEN, TERR and ST, and for an SMC at EL1 and EL2, no priority is stated (rules R103, R143, D17); for ARMv8.4-SecEL2
registers, the AArch32 operations and TLOR the rival is the model's own choice (DESIGN CHOICE, log 18). -/
def Raises (s : State) (rival : Bool) (f : Fault) : Prop :=
  step s = .fault f ∨ (rival = true ∧ Answers s .claimedElsewhere)

/-- The next step can change SCR_EL3: a reset is delivered, or the fetched instruction is its write. -/
def State.scrChangesNext (s : State) : Prop :=
  (∃ rest, s.events = .reset :: rest) ∨ (s.events = [] ∧ ∃ t, fetchDecode s.mem s.pc = .next (.msrScr t))

/-- One of the `n` bytes from `a` lies in a region of memory with the mark (log 12). -/
def State.touches (s : State) (k : Mark) (a : Word) (n : Nat) : Prop :=
  ∃ b, a.toNat ≤ b ∧ b < a.toNat + n ∧ ∃ r ∈ s.marks, r.mark = k ∧ r.base ≤ b ∧ b < r.base + r.size

/-- Any number of steps from `s` to `s'`, none of them a write of SCR_EL3 or a reset. -/
inductive QuietRun : State → State → Prop where
  | refl (s : State) : QuietRun s s
  | step {s s' s'' : State} : Machine.step s = .next s' → ¬s.scrChangesNext → QuietRun s' s'' → QuietRun s s''

/-! ## What the evaluations see -/

/-- The stored value of a field of SCR_EL3. -/
def State.field (s : State) (f : Field) : Bool := stored s.scr f

/-- The Effective value of a field of SCR_EL3. -/
def State.effective (s : State) (f : Field) : Bool := eff s.params s.scr f

/-- A control that a TLB copy can serve: the four fields of rule R52, and ST, whose Effective value reads EEL2's. -/
def servedByCopy : Field → Bool
  | .st => true
  | f => f.cacheable

/-- No older value of the field is visible (rule R56) and no TLB copy can serve it (rule R52). -/
def State.settledFor (s : State) (f : Field) : Bool :=
  decide (s.window = []) && (decide (s.params.tlbModel = .none) || !servedByCopy f)

/-- Where they are settled, every evaluation sees the fields at their Effective values in SCR_EL3. -/
def State.Follows (s : State) (fs : List Field) : Prop :=
  ∀ f ∈ fs, s.settledFor f = true → ∀ r, s.controls r f = s.effective f

/-- Whether the current level uses AArch32, as the evaluation of rules R100 and R108 sees it, else as the environment
supplies. -/
def State.usesAArch32 (s : State) : Bool :=
  (aarch32At s.params (s.controls .execution) s.el).getD s.inputs.aarch32

/-- The current level is EL1 or EL2. -/
def State.atEL1orEL2 (s : State) : Prop := s.el = .el1 ∨ s.el = .el2

end Sys2Proof.Machine
end

