-- ==== Sys2Proof/Certificates/Slice0/Obligations.lean ====
section
/-!
DEFINITION. The statements for the provers.
-/

open Sys2Proof Sys2Proof.Machine

/-! ## Encoding -/

/-- Decoding an encoded well-formed instruction gives it back and leaves the bytes after it (rules R60 to R63). -/
def Obligations.DecodeEncodeRoundTrip : Prop :=
  ∀ (i : Instr) (rest : List Byte), i.wf = true → decode (encode i ++ rest) = .ok (i, rest)

/-- Rule R62's two rows by match and mask, and rule R64 for every other word. -/
def Obligations.DecodeFollowsMatchAndMask : Prop :=
  ∀ w : InstrWord,
    (w &&& 0xFFFFFFE0#32 = 0xD53E1100#32 → decodeWord w = .ok (.mrsScr (w &&& 0x1F#32).toNat)) ∧
    (w &&& 0xFFFFFFE0#32 = 0xD51E1100#32 → decodeWord w = .ok (.msrScr (w &&& 0x1F#32).toNat)) ∧
    (w &&& 0xFFFFFFE0#32 ≠ 0xD53E1100#32 → w &&& 0xFFFFFFE0#32 ≠ 0xD51E1100#32 →
      decodeWord w = .error (.notDescribed w))

/-- A word that decodes is the encoding of a well-formed instruction: no bit of a word is ignored (rules R62, R63). -/
def Obligations.DecodedWordIsItsEncoding : Prop :=
  ∀ (w : InstrWord) (i : Instr), decodeWord w = .ok i → i.wf = true ∧ encodeWord i = w

/-- Words written out from the encoding tables (95_test_vectors.md section 2.3, rows E1 to E9). -/
def Obligations.SpecWordsDecode : Prop :=
  decodeWord 0xD53E1100#32 = .ok (.mrsScr 0) ∧ decodeWord 0xD53E111E#32 = .ok (.mrsScr 30) ∧
  decodeWord 0xD53E111F#32 = .ok (.mrsScr 31) ∧ decodeWord 0xD51E1105#32 = .ok (.msrScr 5) ∧
  decodeWord 0xD53E1120#32 = .error (.notDescribed 0xD53E1120#32) ∧
  decodeWord 0xD53C1100#32 = .error (.notDescribed 0xD53C1100#32)

/-! ## SCR_EL3: positions, legal values, reset -/

/-- Rule R11: the position of every named field; the named fields' bits make `FIELD_MASK`, and it, `RES1_MASK` and
`RES0_MASK` are disjoint and cover all 64 bits. -/
def Obligations.FieldMasksPartitionTheRegister : Prop :=
  [Field.ata, .enscxt, .fien, .nmea, .ease, .eel2, .api, .apk, .terr, .tlor, .twe, .twi, .st, .rw, .sif, .hce, .smd,
    .ea, .fiq, .irq, .ns].map Field.bit =
    [26, 25, 21, 20, 19, 18, 17, 16, 15, 14, 13, 12, 11, 10, 9, 8, 7, 3, 2, 1, 0] ∧
  (∀ n, n < 64 → (0x00000000063FFF8F#64).getLsbD n = (fieldAt n).isSome) ∧
  (∀ f : Field, fieldAt f.bit = some f) ∧
  0x00000000063FFF8F#64 ||| 0x0000000000000030#64 ||| 0xFFFFFFFFF9C00040#64 = BitVec.allOnes 64 ∧
  0x00000000063FFF8F#64 &&& 0x0000000000000030#64 = 0#64 ∧
  0x00000000063FFF8F#64 &&& 0xFFFFFFFFF9C00040#64 = 0#64 ∧
  0x0000000000000030#64 &&& 0xFFFFFFFFF9C00040#64 = 0#64

/-- `Legal(v)` bit by bit, every case of rule R43, and the rule's mask form: with every field present, AArch32 supported
at EL1 and `ResPolicy = hardwired`. -/
def Obligations.LegalBitByBit : Prop :=
  ∀ (p : Params) (v : Word),
    (∀ f : Field, f.present p = true →
      stored (legal p v) f =
        if f = .rw ∧ p.haveAArch32EL2 = false ∧ p.haveAArch32EL1 = false then true else stored v f) ∧
    (∀ f : Field, f.present p = false →
      stored (legal p v) f = if p.resPolicy = .hardwired then false else stored v f) ∧
    (∀ n, n < 64 → (∀ f : Field, f.bit ≠ n) →
      (legal p v).getLsbD n =
        if p.resPolicy = .hardwired then decide (n = 5 ∨ n = 4) else v.getLsbD n) ∧
    ((∀ f : Field, f.present p = true) → p.haveAArch32EL1 = true → p.resPolicy = .hardwired →
      legal p v = (v &&& 0x00000000063FFF8F#64) ||| 0x0000000000000030#64)

/-- `Legal` is idempotent for every value and every configuration (95_test_vectors.md section 2.2). -/
def Obligations.LegalIsIdempotent : Prop :=
  ∀ (p : Params) (v : Word), legal p (legal p v) = legal p v

/-- Rule R161's table, every row: what a reset leaves in each bit, for the draw `u`; and its closed form: with every field
present, hardwired reserved bits, a reset into AArch64 and AArch32 supported at EL1. -/
def Obligations.ResetLeavesEachBit : Prop :=
  ∀ (p : Params) (u : Word),
    (∀ f : Field, f.present p = true →
      stored (resetScr p u) f =
        if f = .rw ∧ p.haveAArch32EL2 = false ∧ p.haveAArch32EL1 = false then true
        else if (f = .nmea ∨ f = .ease) ∧ p.resetIntoAArch64 = true then false
        else stored u f) ∧
    (∀ f : Field, f.present p = false →
      stored (resetScr p u) f = if p.resPolicy = .hardwired then false else stored u f) ∧
    (∀ n, n < 64 → (∀ f : Field, f.bit ≠ n) →
      (resetScr p u).getLsbD n = if p.resPolicy = .hardwired then decide (n = 5 ∨ n = 4) else u.getLsbD n) ∧
    ((∀ f : Field, f.present p = true) → p.resPolicy = .hardwired → p.resetIntoAArch64 = true →
      p.haveAArch32EL1 = true → resetScr p u = (u &&& 0x000000000627FF8F#64) ||| 0x0000000000000030#64)

/-- The event Reset (rules R160 to R162): SCR_EL3 as rule R161 says for a draw that no other reset shares, the level after
reset that the implementation gives. What else it does is the model's choice: x, pc and PSTATE.A, and that memory, inputs,
marks and asserted interrupts are kept (log 5), among the inputs whether the level uses AArch32 (log 27), the empty window
(log 7), the kept TLB copies (log 8). -/
def Obligations.ResetEventResets : Prop :=
  ∀ (s : State) (rest : List Event), s.events = .reset :: rest →
    ∃ s', step s = .next s' ∧ s'.scr = resetScr s.params (Config.unknownScr s.draws) ∧ s'.draws = s.draws + 1 ∧
      s'.el = s.params.resetLevel ∧ s'.pc = 0 ∧ s'.a = true ∧ (∀ t, s'.readX t = 0) ∧ s'.writtenSinceReset = false ∧
      s'.window = [] ∧ s'.held = s.held.add (eff s.params s'.scr) ∧ s'.answer = none ∧
      s'.params = s.params ∧ s'.mem = s.mem ∧ s'.inputs = s.inputs ∧ s'.marks = s.marks ∧
      s'.asserted = s.asserted ∧ s'.events = rest

/-- Two reads with any number of steps between them, none a write or a reset, return the same bits: after a reset as at
any time, an UNKNOWN value, once drawn, is ordinary stored state (rule R70, decision D5). -/
def Obligations.RepeatedReadsAgree : Prop :=
  ∀ (s s1 s2 s3 : State) (t u : Nat), t < 31 → u < 31 → exec (.mrsScr t) s = .next s1 → QuietRun s1 s2 →
    exec (.mrsScr u) s2 = .next s3 → s3.readX u = s1.readX t

/-! ## The two accesses -/

/-- The read into `X[t]`, `t` not 31 (rule R70): below EL3 it is UNDEFINED, at EL3 all 64 stored bits go to `X[t]` and
nothing else changes but the pc. The bound on the pc is decision D7 (log 16). -/
def Obligations.MrsReadsScr : Prop :=
  ∀ (s : State) (t : Nat), t < 31 →
    (s.el ≠ .el3 → exec (.mrsScr t) s = .fault (.undefined .scrAccess)) ∧
    (s.el = .el3 → s.pc.toNat < 2 ^ 64 - 4 →
      ∃ s', exec (.mrsScr t) s = .next s' ∧ s'.readX t = s.scr ∧ (∀ u, u ≠ t → s'.readX u = s.readX u) ∧
        s' = { s with x := s'.x, pc := s'.pc })

/-- The read into register 31 at EL3 discards the value: nothing but the pc changes. That 31 is the zero register is
decision D6 (log 22). -/
def Obligations.MrsToZeroRegisterDiscards : Prop :=
  ∀ s : State, s.el = .el3 → s.pc.toNat < 2 ^ 64 - 4 → exec (.mrsScr 31) s = .next { s with pc := s.pc + 4 }

/-- The write from `X[t]`, `t` not 31 (rule R71): below EL3 it is UNDEFINED, at EL3 SCR_EL3 takes the legal form of
`X[t]` and of the architectural state nothing else changes but the pc. The bound on the pc is decision D7 (log 16); the
hidden state is the frame's. -/
def Obligations.MsrWritesLegalValue : Prop :=
  ∀ (s : State) (t : Nat), t < 31 →
    (s.el ≠ .el3 → exec (.msrScr t) s = .fault (.undefined .scrAccess)) ∧
    (s.el = .el3 → s.pc.toNat < 2 ^ 64 - 4 →
      ∃ s', exec (.msrScr t) s = .next s' ∧ s'.scr = legal s.params (s.readX t) ∧
        s' = { s with
          scr := s'.scr, pc := s'.pc, window := s'.window, held := s'.held, writtenSinceReset := s'.writtenSinceReset })

/-- The write from register 31 at EL3 stores the legal form of 0. That 31 is the zero register is decision D6 (log 22). -/
def Obligations.MsrFromZeroRegisterWritesZero : Prop :=
  ∀ s : State, s.el = .el3 → s.pc.toNat < 2 ^ 64 - 4 →
    ∃ s', exec (.msrScr 31) s = .next s' ∧ s'.scr = legal s.params 0 ∧ s'.x = s.x

/-- Both accesses below EL3 are UNDEFINED, whatever the state holds (rules R70, R71, R74, R140). -/
def Obligations.AccessBelowEL3IsUndefined : Prop :=
  ∀ (s : State) (i : Instr), s.el ≠ .el3 → exec i s = .fault (.undefined .scrAccess)

/-- On an implementation without EL3 both accesses are UNDEFINED at every level it can be in (rule R75). The premise that
`PSTATE.EL` is a level the implementation has is part of the invariant `MachineInv`. -/
def Obligations.AccessWithoutEL3IsUndefined : Prop :=
  ∀ (s : State) (i : Instr), MachineInv s → s.params.haveEL3 = false → exec i s = .fault (.undefined .scrAccess)

/-- An access completes exactly at EL3 and below the top of the address space: no value of the register, of the
implementation or of any other state plays a part (rule R74; the bound on the pc is decision D7). -/
def Obligations.AccessCompletesExactlyAtEL3 : Prop :=
  ∀ (s : State) (i : Instr), (∃ s', exec i s = .next s') ↔ s.el = .el3 ∧ s.pc.toNat < 2 ^ 64 - 4

/-- At EL3 and `pc >= 2^64 - 4` both accesses are refused: no wrap rule is given (decision D7). -/
def Obligations.AccessAtTopIsRefused : Prop :=
  ∀ (s : State) (i : Instr), s.el = .el3 → 2 ^ 64 - 4 ≤ s.pc.toNat → exec i s = .refused .pcAtTop

/-- A completed access adds 4 to the pc, and the addition does not wrap (rule R72, decision D7). -/
def Obligations.CompletedAccessAdvancesPc : Prop :=
  ∀ (s s' : State) (i : Instr), exec i s = .next s' → s'.pc = s.pc + 4 ∧ s'.pc.toNat = s.pc.toNat + 4

/-- The frame of the read (rule R70): every register but `X[t]`, SCR_EL3, the process state, the hidden state, the
inputs and every byte of memory are unchanged. -/
def Obligations.MrsFrame : Prop :=
  ∀ (s s' : State) (t : Nat), exec (.mrsScr t) s = .next s' →
    (∀ u, u ≠ t → s'.readX u = s.readX u) ∧ s'.scr = s.scr ∧ s'.el = s.el ∧ s'.a = s.a ∧ s'.inputs = s.inputs ∧
    s'.params = s.params ∧ s'.asserted = s.asserted ∧ s'.held = s.held ∧ s'.window = s.window ∧ s'.marks = s.marks ∧
    s'.writtenSinceReset = s.writtenSinceReset ∧ s'.events = s.events ∧ s'.answer = s.answer ∧ s'.draws = s.draws ∧
    ∀ a, readByte s'.mem a = readByte s.mem a

/-- The frame of the write (rule R71): every general register, the process state, the inputs and every byte of memory
are unchanged; the TLB's copies and the window gain the values, and lose none (R52, R56). -/
def Obligations.MsrFrame : Prop :=
  ∀ (s s' : State) (t : Nat), exec (.msrScr t) s = .next s' →
    (∀ u, s'.readX u = s.readX u) ∧ s'.el = s.el ∧ s'.a = s.a ∧ s'.inputs = s.inputs ∧ s'.params = s.params ∧
    s'.asserted = s.asserted ∧ s'.marks = s.marks ∧ s'.events = s.events ∧ s'.answer = s.answer ∧ s'.draws = s.draws ∧
    s'.window = s.window ++ [s.scr] ∧ s'.held = s.held.add (eff s.params s'.scr) ∧ s'.writtenSinceReset = true ∧
    ∀ a, readByte s'.mem a = readByte s.mem a

/-- Read after write (rule R73): the read returns the legal form of the value the write offered, with no barrier. -/
def Obligations.ReadAfterWrite : Prop :=
  ∀ (s : State) (t u : Nat), u < 31 → s.el = .el3 → s.pc.toNat + 4 < 2 ^ 64 - 4 →
    ∃ s1 s2, exec (.msrScr t) s = .next s1 ∧ exec (.mrsScr u) s1 = .next s2 ∧ s2.readX u = legal s.params (s.readX t)

/-- Reading and writing back changes nothing of SCR_EL3: a read returns stored values, not Effective values (rule R20;
program P5). The premise on the stored value is the invariant `MachineInv`. -/
def Obligations.WriteBackPreservesScr : Prop :=
  ∀ (s : State) (t : Nat), MachineInv s → t < 31 → s.el = .el3 → s.pc.toNat + 4 < 2 ^ 64 - 4 →
    ∃ s1 s2, exec (.mrsScr t) s = .next s1 ∧ exec (.msrScr t) s1 = .next s2 ∧ s2.scr = s.scr

/-- Writing EEL2 = 1 and NS = 0 leaves RW as written and makes its Effective value 1 (rules R35 clause 3, R71). -/
def Obligations.SecureEL2OverridesRw : Prop :=
  ∀ (s s' : State) (t : Nat), exec (.msrScr t) s = .next s' → s.params.haveSecEL2 = true → rwIsRAO s.params = false →
    stored (s.readX t) .eel2 = true → stored (s.readX t) .ns = false →
    s'.field .rw = stored (s.readX t) .rw ∧ s'.effective .rw = true

/-- The AArch32 register SCR (rule R13): where it is mapped, it is SCR_EL3[31:0] after a write; where it is not, a write
of SCR_EL3 leaves it. -/
def Obligations.AArch32ScrMapping : Prop :=
  ∀ (s s' : State) (t : Nat), exec (.msrScr t) s = .next s' →
    (s.params.mapsToAArch32SCR = true → s'.aarch32Scr = s'.scr.truncate 32) ∧
    (s.params.mapsToAArch32SCR = false → s'.aarch32Scr = s.aarch32Scr)

/-! ## The step -/

/-- With no event to deliver, a step runs the instruction that the four bytes at the pc decode to: on the same state
where no mark stands on them, and where one does, on the state whose draws the fetch check has spent, if SIF and NS
permit the fetch (rules R62, R101, R107; log 10). -/
def Obligations.StepRunsTheDecodedInstruction : Prop :=
  ∀ (s : State) (i : Instr) (bs rest : List Byte), s.events = [] → readBytes s.mem s.pc.toNat 4 = some bs →
    decode bs = .ok (i, rest) →
    (s.fetchMarked = false → step s = exec i s) ∧
    (s.fetchMarked = true → ∀ a, judge (s.attempt false) s.controls (.fetch s.pc) = .next a →
      step s = exec i { s with draws := s.draws + 1 })

/-- An instruction's word placed at the pc is what the next step runs (log 10). -/
def Obligations.PlacedWordRunsNext : Prop :=
  ∀ (s : State) (i : Instr), i.wf = true → s.pc.toNat + 4 ≤ 2 ^ 64 →
    step (s.withFetchWord 32 (encodeWord i).toNat) = exec i (s.withFetchWord 32 (encodeWord i).toNat)

/-- A word that matches neither row stops the step by name (rule R64, D13). -/
def Obligations.UndescribedWordStopsTheStep : Prop :=
  ∀ (s : State) (w : InstrWord), s.pc.toNat + 4 ≤ 2 ^ 64 → w &&& 0xFFFFFFE0#32 ≠ 0xD53E1100#32 →
    w &&& 0xFFFFFFE0#32 ≠ 0xD51E1100#32 →
    step (s.withFetchWord 32 w.toNat) = .refused (.notDescribed w)

/-! ## Invariants and whole-machine rules -/

/-- The reset state meets the invariant, for every implementation that has its reset level and every draw. -/
def Obligations.ResetMeetsInvariant : Prop :=
  (∀ (p : Params) (u : Word), p.wf = true → MachineInv (State.ofReset p u)) ∧ MachineInv State.reset

/-- Every step keeps the invariant and the implementation. -/
def Obligations.StepKeepsInvariant : Prop :=
  ∀ s s' : State, MachineInv s → step s = .next s' → MachineInv s' ∧ s'.params = s.params

/-- "No bit of it changes except by a write (rule R71) or a reset" (rule R146). -/
def Obligations.ScrChangesOnlyByWriteOrReset : Prop :=
  ∀ s s' : State, step s = .next s' → s'.scr ≠ s.scr →
    (∃ rest, s.events = .reset :: rest) ∨
    (s.events = [] ∧ s.el = .el3 ∧ ∃ t, fetchDecode s.mem s.pc = .next (.msrScr t) ∧ s'.scr = legal s.params (s.readX t))

/-- Below EL3 no instruction runs to completion and nothing of SCR_EL3 leaks: a step with no event to deliver gives no
next state (rule R74; program P3). -/
def Obligations.NoInstructionCompletesBelowEL3 : Prop :=
  ∀ s s' : State, s.events = [] → s.el ≠ .el3 → step s ≠ .next s'

/-- `PSTATE.EL` changes by a reset or by the environment alone, and only to a level the implementation has (rule R44:
no rule writes it; R145). The premise rules out an implementation that lacks its reset level. -/
def Obligations.LevelChangesOnlyFromOutside : Prop :=
  ∀ s s' : State, MachineInv s → step s = .next s' → s'.el ≠ s.el →
    s.params.hasLevel s'.el = true ∧
    ((∃ rest, s.events = .reset :: rest) ∨ (∃ rest, s.events = .setEL s'.el :: rest))

/-- Only the two accesses and a reset move the pc, and no step writes memory (R50, program P2). -/
def Obligations.PcMovesOnlyByAccessOrReset : Prop :=
  ∀ s s' : State, step s = .next s' →
    (s'.pc ≠ s.pc → (∃ rest, s.events = .reset :: rest) ∨ (s.events = [] ∧ s.el = .el3 ∧ s'.pc = s.pc + 4)) ∧
    ∀ a, readByte s'.mem a = readByte s.mem a

/-! ## Hidden state -/

/-- What an evaluation sees. It reads SCR_EL3 or a value written over since the last Context synchronization event, and
`SecureEL2Enabled`, a predicate of its own, is read of such a value too (R56, R86, D12; log 7). Each control is the
Effective value in it, ST and RW by the EEL2 the evaluation sees (R34, R35); ATA, EEL2, RW and SIF may be at a value held
since the last TLB invalidation instead, with `TLBModel = draw` (R52, D9; log 8). -/
def Obligations.ControlsAreVisibleValues : Prop :=
  ∀ (s : State) (r : Evaluation), ∃ v w, (v = s.scr ∨ v ∈ s.window) ∧ (w = s.scr ∨ w ∈ s.window) ∧
    (s.controls r .eel2 = effEEL2 s.params w ∨
      s.params.tlbModel = .draw ∧ s.held.eel2.has (s.controls r .eel2) = true) ∧
    (s.controls r .rw = effRWWith s.params (s.controls r .eel2) v ∨
      s.params.tlbModel = .draw ∧ s.held.rw.has (s.controls r .rw) = true) ∧
    (s.controls r .ata = eff s.params v .ata ∨
      s.params.tlbModel = .draw ∧ s.held.ata.has (s.controls r .ata) = true) ∧
    (s.controls r .sif = eff s.params v .sif ∨
      s.params.tlbModel = .draw ∧ s.held.sif.has (s.controls r .sif) = true) ∧
    (s.controls r .st = if s.controls r .eel2 = true then true else stored v .st) ∧
    ∀ f : Field, f.cacheable = false → f ≠ .st → s.controls r f = eff s.params v f

/-- After a Context synchronization event only the new value governs (R56): every evaluation reads the Effective values of
what SCR_EL3 holds, but for the controls a TLB copy may serve (R52). -/
def Obligations.CtxSyncClosesTheWindow : Prop :=
  ∀ (s : State) (rest : List Event), s.events = .ctxSync :: rest →
    ∃ s', step s = .next s' ∧ s'.scr = s.scr ∧ s'.window = [] ∧ s'.held = s.held ∧
      ∀ (r : Evaluation) (f : Field), s.params.tlbModel = .none ∨ (f.cacheable = false ∧ f ≠ .st) →
        s'.controls r f = eff s.params s.scr f

/-- TLB invalidation (R52; GK4, log 8): what is held after it are the Effective values of the values still visible, and
nothing else of the state changes. -/
def Obligations.TlbInvalidateKeepsVisibleValues : Prop :=
  ∀ (s : State) (rest : List Event), s.events = .tlbInvalidate :: rest →
    ∃ s', step s = .next s' ∧ s' = { s with events := rest, held := s'.held } ∧
      ∀ b : Bool,
        (s'.held.ata.has b = true ↔ ∃ v, (v = s.scr ∨ v ∈ s.window) ∧ eff s.params v .ata = b) ∧
        (s'.held.eel2.has b = true ↔ ∃ v, (v = s.scr ∨ v ∈ s.window) ∧ eff s.params v .eel2 = b) ∧
        (s'.held.rw.has b = true ↔ ∃ v, (v = s.scr ∨ v ∈ s.window) ∧ eff s.params v .rw = b) ∧
        (s'.held.sif.has b = true ↔ ∃ v, (v = s.scr ∨ v ∈ s.window) ∧ eff s.params v .sif = b)

/-! ## Effective values -/

/-- The Effective values of FIEN, EEL2, API and APK (rules R24, R27, R28, R29). -/
def Obligations.EffectiveValuesWithoutEL3 : Prop :=
  ∀ (p : Params) (v : Word),
    (p.haveEL3 = false → eff p v .fien = true) ∧
    (p.haveEL3 = true → p.haveFaultInjection = true → eff p v .fien = stored v .fien) ∧
    (p.havePAuth = true → p.haveEL3 = false → eff p v .api = true ∧ eff p v .apk = true) ∧
    (p.havePAuth = true → p.haveEL3 = true → eff p v .api = stored v .api ∧ eff p v .apk = stored v .apk) ∧
    (p.haveSecEL2 = false → eff p v .eel2 = false) ∧
    (p.haveSecEL2 = true → eff p v .eel2 =
      if p.secureOnly = true ∧ p.haveEL3 = false ∧ p.haveEL2 = true then true else stored v .eel2)

/-- The Effective value of RW, its four clauses in order (rule R35), clause 3 in the wider form of conflict C5. -/
def Obligations.EffectiveRw : Prop :=
  ∀ (p : Params) (v : Word),
    eff p v .rw =
      if p.haveAArch32EL2 = false ∧ p.haveAArch32EL1 = false then true
      else if p.haveAArch32EL1 = true ∧ stored v .ns = true ∧ p.haveAArch32EL2 = false then true
      else if eff p v .eel2 = true ∧ stored v .ns = false then true
      else stored v .rw

/-- The Effective values of ST and HCE (rules R34, R37), and of the fields whose rule states no other Effective value
(rule R20): the stored bit, and 0 where the implementation lacks the field (log 9). -/
def Obligations.EffectiveOfTheOtherFields : Prop :=
  ∀ (p : Params) (v : Word),
    eff p v .st = (if eff p v .eel2 = true then true else stored v .st) ∧
    eff p v .hce = (if p.haveEL2 = true then stored v .hce else false) ∧
    ∀ f ∈ [Field.ata, .enscxt, .nmea, .ease, .terr, .tlor, .twe, .twi, .sif, .smd, .ea, .fiq, .irq, .ns],
      eff p v f = if f.present p = true then stored v f else false

/-! ## What each field makes the PE do

Each statement holds in every state. `s.controls r f` is the Effective value that the evaluation `r` of a predicate sees
of a field, and `Follows` says that it is that of SCR_EL3 wherever no older value is visible and no TLB copy can serve. -/

/-- ATA (rules R80, R81). -/
def Obligations.AtaPreventsTagAccess : Prop :=
  ∀ (s : State) (u : TagUse) (rival : Bool), Asks s (.tag u) rival → s.params.haveEL3 = true →
    s.params.haveMemTag = true →
    s.Follows [.ata] ∧
    (s.el ≠ .el3 → s.controls .own .ata = false → Answers s
      (match u with
        | .loadStoreData => .unchecked
        | .loadTag => .tagReadsZero
        | .storeTag => .tagWriteIgnored
        | .insertLogicalTag => .logicalTagFromZero
        | .invalidateTags => .cleanAndInvalidate)) ∧
    (s.el = .el3 ∨ s.controls .own .ata = true → Answers s .notAffected)

/-- EnSCXT (rule R82): the listed pairs of level and register trap while it is 0, and the PE then uses 0 for them. -/
def Obligations.EnscxtTrapsAndZeroes : Prop :=
  ∀ (s : State) (r : ScxtReg) (rival : Bool), s.params.haveEL3 = true → s.params.haveCSV2 = true →
    s.Follows [.enscxt] ∧
    (Asks s (.scxtAccess r) rival → s.controls .own .enscxt = false →
      ((r = .scxtnumEl0 ∧ s.el ≠ .el3) ∨ (r = .scxtnumEl1 ∧ s.atEL1orEL2) ∨ (r = .scxtnumEl2 ∧ s.el = .el2) →
        Raises s rival (.trapToEL3 (.scxtAccess r))) ∧
      (¬((r = .scxtnumEl0 ∧ s.el ≠ .el3) ∨ (r = .scxtnumEl1 ∧ s.atEL1orEL2) ∨ (r = .scxtnumEl2 ∧ s.el = .el2)) →
        Answers s .notAffected)) ∧
    (Asks s (.scxtAccess r) rival → s.controls .own .enscxt = true → Answers s .notAffected) ∧
    (Asks s (.scxtUse r) rival → s.controls .own .enscxt = false → Answers s (.registerValue 0)) ∧
    (Asks s (.scxtUse r) rival → s.controls .own .enscxt = true → Answers s (.registerValue (s.inputs.scxtnum r)))

/-- FIEN (rules R24, R83): the three registers trap from EL1 and EL2 while it is 0, and never without EL3. -/
def Obligations.FienTrapsFaultInjection : Prop :=
  ∀ (s : State) (r : FaultInjReg) (rival : Bool), Asks s (.faultInjection r) rival →
    s.params.haveFaultInjection = true →
    s.Follows [.fien] ∧
    (s.params.haveEL3 = true → s.controls .own .fien = false → s.atEL1orEL2 →
      Raises s rival (.trapToEL3 (.faultInjection r))) ∧
    (s.params.haveEL3 = false ∨ s.controls .own .fien = true ∨ ¬s.atEL1orEL2 → Answers s .notAffected)

/-- SError (rules R84, R104): routed by EA; at EL3 masked by NMEA = 0 and PSTATE.A = 1. With EA = 0 at EL3, and where the
mask's own evaluation sees EA = 0, there is no answer (D14; logs 7, 25). -/
def Obligations.SerrorRoutingAndMasking : Prop :=
  ∀ s : State, Offers s .serror →
    s.Follows [.ea, .nmea] ∧
    (s.controls .own .ea = true → s.el ≠ .el3 → step s = .fault (.takenToEL3 (.interrupt .serror) none)) ∧
    (s.controls .own .ea = true → s.el = .el3 → s.controls .masking .ea = true →
      (s.controls .masking .nmea = false ∧ s.a = true → Answers s .staysPending) ∧
      (s.controls .masking .nmea = true ∨ s.a = false → step s = .fault (.takenToEL3 (.interrupt .serror) none))) ∧
    (s.controls .own .ea = true → s.el = .el3 → s.controls .masking .ea = false →
      step s = .refused (.lostList (.interrupt .serror))) ∧
    (s.controls .own .ea = false → s.el ≠ .el3 → Answers s .notTakenToEL3) ∧
    (s.controls .own .ea = false → s.el = .el3 → step s = .refused (.lostList (.interrupt .serror)))

/-- External aborts (rule R104) and the vector of a synchronous one (rule R85): EASE picks between the two offsets from
`VBAR_EL3`, whatever they are. -/
def Obligations.ExternalAbortRoutingAndVector : Prop :=
  ∀ s : State, s.Follows [.ea, .ease] ∧
    (Aborts s true → s.controls .own .ea = true →
      step s = .fault (.takenToEL3 (.externalAbort true) (some (s.inputs.vbarEl3 +
        if s.controls .vector .ease = true then Config.serrorVectorOffset s.el s.usesAArch32
        else Config.syncVectorOffset s.el s.usesAArch32)))) ∧
    (Aborts s false → s.controls .own .ea = true → step s = .fault (.takenToEL3 (.externalAbort false) none)) ∧
    (∀ b, Aborts s b → s.controls .own .ea = false → s.el ≠ .el3 → Answers s .notTakenToEL3) ∧
    (∀ b, Aborts s b → s.controls .own .ea = false → s.el = .el3 → step s = .refused (.lostList (.externalAbort b)))

/-- FIQ and IRQ (rules R105, R106): each routed by its own bit; with the bit 0 not taken to EL3 from below, and not
taken at EL3. -/
def Obligations.FiqAndIrqRouting : Prop :=
  ∀ (s : State) (k : Interrupt) (f : Field), (k = .fiq ∧ f = .fiq) ∨ (k = .irq ∧ f = .irq) → Offers s k →
    s.Follows [f] ∧
    (s.controls .own f = true → step s = .fault (.takenToEL3 (.interrupt k) none)) ∧
    (s.controls .own f = false → s.el ≠ .el3 → Answers s .notTakenToEL3) ∧
    (s.controls .own f = false → s.el = .el3 → Answers s .staysPending)

/-- EEL2 at 0 (rules R86, R87): the registers of ARMv8.4-SecEL2 are UNDEFINED and its timers disabled, at every level. That
a rival control may claim the access instead is the model's choice (log 18). -/
def Obligations.SecureEL2DisabledEffects : Prop :=
  ∀ (s : State) (rival : Bool), s.params.haveEL3 = true →
    s.Follows [.eel2] ∧
    (Asks s .secEL2Register rival →
      (s.controls .own .eel2 = false → Raises s rival (.undefined .secEL2Register)) ∧
      (s.controls .own .eel2 = true → Answers s .notAffected)) ∧
    (Asks s .secEL2Timer rival →
      (s.controls .own .eel2 = false → Answers s .timersDisabled) ∧
      (s.controls .own .eel2 = true → Answers s .notAffected))

/-- What is answered without EL3, and for a feature the implementation lacks: the model's reading of D3 and of R21 (logs 9,
14). The Effective value 1 of FIEN, API and APK lets their operations pass, and EEL2's governs those of ARMv8.4-SecEL2,
where the rival is the model's choice (log 18). -/
def Obligations.OperationsWithoutEL3OrFeature : Prop :=
  ∀ (s : State) (op : Operation) (rival : Bool), Asks s op rival →
    (op.available s.params = false → step s = .refused (.absentFeature op)) ∧
    (op.available s.params = true → s.params.haveEL3 = false →
      match op with
      | .faultInjection _ => Answers s .notAffected
      | .pauthInstr _ => Answers s .notAffected
      | .pauthKey => Answers s .notAffected
      | .secEL2Register =>
        (s.controls .own .eel2 = false → Raises s rival (.undefined .secEL2Register)) ∧
        (s.controls .own .eel2 = true → Answers s .notAffected)
      | .secEL2Timer =>
        (s.controls .own .eel2 = false → Answers s .timersDisabled) ∧
        (s.controls .own .eel2 = true → Answers s .notAffected)
      | _ => step s = .refused .noEL3)

/-- The operations of the two lost lists (rules R88, R89, R90): in Secure EL1 using AArch32 they are trapped to Secure
EL2 with class 0x3 or 0x0 when it is enabled, and to EL3 when it is not. The model's choice are the class's 6 bits (log 26)
and that a rival control may claim the operation instead (log 18). -/
def Obligations.AArch32SecureOpsTrap : Prop :=
  ∀ (s : State) (l : LostList) (rival : Bool), Asks s (.aarch32SecureOp l) rival → s.params.haveEL3 = true →
    s.params.haveAArch32EL1 = true →
    s.Follows [.eel2, .ns, .rw] ∧
    (s.el = .el1 ∧ s.controls .security .ns = false ∧ s.usesAArch32 = true →
      (s.controls .own .eel2 = true →
        Raises s rival (.trapToSecureEL2 (.aarch32SecureOp l) (if l = .ec3 then 0x3#6 else 0x0#6))) ∧
      (s.controls .own .eel2 = false → Raises s rival (.trapToEL3 (.aarch32SecureOp l)))) ∧
    (¬(s.el = .el1 ∧ s.controls .security .ns = false ∧ s.usesAArch32 = true) → Answers s .notAffected)

/-- API and APK (rules R91, R92) with their priorities against EL2 (R143); for a key register "other traps" win. -/
def Obligations.PointerAuthTraps : Prop :=
  ∀ (s : State) (rival : Bool), s.params.havePAuth = true →
    s.Follows [.api, .apk] ∧
    (∀ enabled, Asks s (.pauthInstr enabled) rival →
      (s.controls .own .api = false ∧ s.el ≠ .el3 ∧ enabled = true ∧ s.inputs.hcrEl2Api = false →
        step s = .fault (.trapToEL3 (.pauthInstr enabled))) ∧
      (¬(s.controls .own .api = false ∧ s.el ≠ .el3 ∧ enabled = true ∧ s.inputs.hcrEl2Api = false) →
        Answers s .notAffected)) ∧
    (Asks s .pauthKey rival →
      (s.controls .own .apk = false ∧ s.atEL1orEL2 ∧ s.inputs.hcrEl2Apk = false ∧ rival = false →
        step s = .fault (.trapToEL3 .pauthKey)) ∧
      (¬(s.controls .own .apk = false ∧ s.atEL1orEL2 ∧ s.inputs.hcrEl2Apk = false ∧ rival = false) →
        Answers s .notAffected))

/-- TERR (rule R93): the register lists of each Execution state, the last registers of each with ARMv8.4-RAS alone. -/
def Obligations.TerrTrapsErrorRecords : Prop :=
  ∀ (s : State) (r : ErrorReg) (rival : Bool), Asks s (.errorRecord r) rival → s.params.haveEL3 = true →
    s.params.haveRAS = true →
    let listed :=
      if s.usesAArch32 then
        [ErrorReg.erridr, .errselr, .erxaddr, .erxaddr2, .erxctlr, .erxctlr2, .erxfr, .erxfr2, .erxmisc0, .erxmisc1,
          .erxmisc2, .erxmisc3, .erxstatus] ++
        (if s.params.haveRAS84 then [.erxmisc4, .erxmisc5, .erxmisc6, .erxmisc7] else [])
      else
        [ErrorReg.erridrEl1, .errselrEl1, .erxaddrEl1, .erxctlrEl1, .erxfrEl1, .erxmisc0El1, .erxmisc1El1,
          .erxstatusEl1] ++
        (if s.params.haveRAS84 then [.erxmisc2El1, .erxmisc3El1] else [])
    s.Follows [.terr, .rw, .eel2, .ns] ∧
    (s.controls .own .terr = true ∧ s.atEL1orEL2 ∧ r ∈ listed → Raises s rival (.trapToEL3 (.errorRecord r))) ∧
    (¬(s.controls .own .terr = true ∧ s.atEL1orEL2 ∧ r ∈ listed) → Answers s .notAffected)

/-- TLOR (rule R94): UNDEFINED and the EL2 trap come before the trap to EL3. That a further rival control may claim the
access is the model's choice (log 18). -/
def Obligations.TlorTrapsLorRegisters : Prop :=
  ∀ (s : State) (r : LorReg) (u rival : Bool), Asks s (.lor r u) rival → s.params.haveEL3 = true →
    s.params.haveLOR = true →
    s.Follows [.tlor] ∧
    (s.controls .own .tlor = true ∧ s.atEL1orEL2 ∧ u = false ∧ s.inputs.hcrEl2Tlor = false →
      Raises s rival (.trapToEL3 (.lor r u))) ∧
    (¬(s.controls .own .tlor = true ∧ s.atEL1orEL2 ∧ u = false ∧ s.inputs.hcrEl2Tlor = false) →
      Answers s .notAffected)

/-- TWE and TWI (rules R95 to R98): a WFE or WFI whose trap is armed is trapped or completes, and there is no third
outcome; where the trap is not armed, the field affects nothing. -/
def Obligations.WfxTrapsOrCompletes : Prop :=
  ∀ (s : State) (ws cc rival : Bool), s.params.haveEL3 = true →
    s.Follows [.twe, .twi, .rw, .eel2, .ns] ∧
    (Asks s (.wfe ws cc) rival →
      let armed := s.controls .own .twe = true ∧ s.el ≠ .el3 ∧ ws = true ∧ s.inputs.wfe.any = false ∧
        (s.usesAArch32 = true → cc = true)
      (armed → step s = .fault (.trapToEL3 (.wfe ws cc)) ∨ Answers s .completesAsNop) ∧
      (¬armed → Answers s .notAffected)) ∧
    (Asks s (.wfi ws cc) rival →
      let armed := s.controls .own .twi = true ∧ s.el ≠ .el3 ∧ ws = true ∧ s.inputs.wfi.any = false ∧
        (s.usesAArch32 = true → cc = true)
      (armed → step s = .fault (.trapToEL3 (.wfi ws cc)) ∨ Answers s .completesAsNop) ∧
      (¬armed → Answers s .notAffected))

/-- ST (rules R34, R99). -/
def Obligations.StTrapsSecureTimer : Prop :=
  ∀ (s : State) (r : TimerReg) (rival : Bool), Asks s (.secureTimer r) rival → s.params.haveEL3 = true →
    let armed := s.controls .own .st = false ∧ s.el = .el1 ∧ s.controls .security .ns = false ∧ s.usesAArch32 = false
    s.Follows [.st, .ns, .rw, .eel2] ∧
    (armed → Raises s rival (.trapToEL3 (.secureTimer r))) ∧
    (¬armed → Answers s .notAffected)

/-- The Execution state of the levels below EL3 (rules R100, R108). With EL2 implemented but not enterable (NS = 0 and
Secure EL2 disabled) EL1 is the next lower level: DEDUCED from vectors X3 and X4 (log 19). -/
def Obligations.ExecutionStateOfLowerLevels : Prop :=
  ∀ (p : Params) (v : Word), p.haveEL3 = true →
    (eff p v .rw = false →
      aarch32At p (eff p v) .el1 = some true ∧ aarch32At p (eff p v) .el0 = some true ∧
      (p.haveEL2 = true → aarch32At p (eff p v) .el2 = some true)) ∧
    (eff p v .rw = true → p.haveEL2 = true → aarch32At p (eff p v) .el2 = some false) ∧
    (eff p v .rw = true → p.haveEL2 = false → aarch32At p (eff p v) .el1 = some false) ∧
    (eff p v .rw = true → stored v .ns = false → eff p v .eel2 = false → aarch32At p (eff p v) .el1 = some false)

/-- The Security state of the levels below EL3 (rules R107, R108). -/
def Obligations.SecurityStateOfLowerLevels : Prop :=
  ∀ (p : Params) (v : Word), p.haveEL3 = true →
    secureAt (eff p v) .el0 = some (!stored v .ns) ∧ secureAt (eff p v) .el1 = some (!stored v .ns) ∧
    (stored v .ns = true → secureAt (eff p v) .el2 = some false) ∧
    (stored v .ns = false → eff p v .eel2 = true →
      secureAt (eff p v) .el2 = some true ∧ (p.haveEL2 = true → aarch32At p (eff p v) .el2 = some false)) ∧
    (stored v .ns = false → eff p v .eel2 = false → secureAt (eff p v) .el2 = none)

/-- SIF and NS on a fetch of four bytes (rules R101, R107), attempted as an operation or made by the machine itself where a
mark meets the bytes at the pc: a fetch of Secure memory is denied to a level below EL3 while NS is seen at 1; a fetch
from Non-secure memory is not permitted to a Secure level while SIF is seen at 1; any other fetch goes on, that of a
Non-secure level with SIF = 1 among them. The two faults are log 12 and D15, the one-byte criterion is log 12, that EL3 is
Secure is log 11, and the refusal at an EL2 that does not exist is log 25. -/
def Obligations.SifAndNsOnAFetch : Prop :=
  ∀ (s : State) (addr : Word), s.params.haveEL3 = true →
    let denied := s.controls .security .ns = true ∧ s.el ≠ .el3 ∧ s.touches .secure addr 4
    let guarded := s.controls .own .sif = true ∧
      s.touches (if s.params.haveSecEL2 = true then .stage1NonSecure else .nonSecure) addr 4
    let secure := secureAt (s.controls .security) s.el
    s.Follows [.sif, .ns, .eel2] ∧
    (∀ rival, Asks s (.fetch addr) rival ∨ (s.events = [] ∧ s.fetchMarked = true ∧ s.pc = addr) →
      (denied → step s = .fault (.secureMemoryDenied addr)) ∧
      (¬denied → guarded → secure = some true → step s = .fault (.fetchNotPermitted addr)) ∧
      (¬denied → guarded → secure = none → step s = .refused .noUsableEL2) ∧
      (¬denied → (guarded → secure = some false) →
        (Asks s (.fetch addr) rival → Answers s .notAffected) ∧
        (s.events = [] → ∀ i, fetchDecode s.mem s.pc = .next i →
          step s = exec i { s with draws := s.draws + 1 })))

/-- NS (rule R107): while it is 1, an access from below EL3 cannot access Secure memory; otherwise NS does not stop it.
That it stops as a fault is the model's choice (log 12). -/
def Obligations.NsDeniesSecureMemory : Prop :=
  ∀ (s : State) (a : Word) (n : Nat) (rival : Bool), Asks s (.access a n) rival → s.params.haveEL3 = true →
    let denied := s.controls .security .ns = true ∧ s.el ≠ .el3 ∧ s.touches .secure a n
    s.Follows [.ns] ∧
    (denied → step s = .fault (.secureMemoryDenied a)) ∧
    (¬denied → Answers s .notAffected)

/-- HCE (rules R37, R102). -/
def Obligations.HceDisablesHvc : Prop :=
  ∀ (s : State) (rival : Bool), Asks s .hvc rival → s.params.haveEL3 = true →
    let disabled := s.controls .own .hce = false ∨ s.el = .el0 ∨
      (s.el = .el1 ∧ s.controls .security .ns = false ∧ s.controls .own .eel2 = false)
    s.Follows [.hce, .ns, .eel2] ∧
    (disabled → step s = .fault (.undefined .hvc)) ∧
    (¬disabled → Answers s .notAffected)

/-- SMD (rule R103). At EL1 and EL2, where the rule does not state whether a trap of SMC to EL2 comes first, a rival control
may claim the SMC instead (D17, log 18). -/
def Obligations.SmdDisablesSmc : Prop :=
  ∀ (s : State) (rival : Bool), Asks s .smc rival → s.params.haveEL3 = true →
    s.Follows [.smd] ∧
    (s.el = .el0 ∨ (s.el = .el3 ∧ s.controls .own .smd = true) → step s = .fault (.undefined .smc)) ∧
    (s.atEL1orEL2 → s.controls .own .smd = true → Raises s rival (.undefined .smc)) ∧
    (s.el ≠ .el0 → s.controls .own .smd = false → Answers s .notAffected)
end

