-- ==== Sys2Proof/Laws/State.lean ====
section
/-!
SUPPORT. The fields of a state after each update: one lemma per field per update.
-/

namespace Sys2Proof.Machine

variable (s : State)

/-! ## writeX -/

@[simp] theorem State.writeX_params (t : Nat) (v : Word) : (s.writeX t v).params = s.params := by unfold State.writeX; split <;> rfl
@[simp] theorem State.writeX_scr (t : Nat) (v : Word) : (s.writeX t v).scr = s.scr := by unfold State.writeX; split <;> rfl
@[simp] theorem State.writeX_pc (t : Nat) (v : Word) : (s.writeX t v).pc = s.pc := by unfold State.writeX; split <;> rfl
@[simp] theorem State.writeX_el (t : Nat) (v : Word) : (s.writeX t v).el = s.el := by unfold State.writeX; split <;> rfl
@[simp] theorem State.writeX_a (t : Nat) (v : Word) : (s.writeX t v).a = s.a := by unfold State.writeX; split <;> rfl
@[simp] theorem State.writeX_inputs (t : Nat) (v : Word) : (s.writeX t v).inputs = s.inputs := by unfold State.writeX; split <;> rfl
@[simp] theorem State.writeX_marks (t : Nat) (v : Word) : (s.writeX t v).marks = s.marks := by unfold State.writeX; split <;> rfl
@[simp] theorem State.writeX_asserted (t : Nat) (v : Word) : (s.writeX t v).asserted = s.asserted := by unfold State.writeX; split <;> rfl
@[simp] theorem State.writeX_held (t : Nat) (v : Word) : (s.writeX t v).held = s.held := by unfold State.writeX; split <;> rfl
@[simp] theorem State.writeX_window (t : Nat) (v : Word) : (s.writeX t v).window = s.window := by unfold State.writeX; split <;> rfl
@[simp] theorem State.writeX_mem (t : Nat) (v : Word) : (s.writeX t v).mem = s.mem := by unfold State.writeX; split <;> rfl
@[simp] theorem State.writeX_draws (t : Nat) (v : Word) : (s.writeX t v).draws = s.draws := by unfold State.writeX; split <;> rfl
@[simp] theorem State.writeX_events (t : Nat) (v : Word) : (s.writeX t v).events = s.events := by unfold State.writeX; split <;> rfl
@[simp] theorem State.writeX_answer (t : Nat) (v : Word) : (s.writeX t v).answer = s.answer := by unfold State.writeX; split <;> rfl
@[simp] theorem State.writeX_writtenSinceReset (t : Nat) (v : Word) : (s.writeX t v).writtenSinceReset = s.writtenSinceReset := by unfold State.writeX; split <;> rfl

/-! ## writeScr -/

@[simp] theorem State.writeScr_params (v : Word) : (s.writeScr v).params = s.params := rfl
@[simp] theorem State.writeScr_scr (v : Word) : (s.writeScr v).scr = legal s.params v := rfl
@[simp] theorem State.writeScr_x (v : Word) : (s.writeScr v).x = s.x := rfl
@[simp] theorem State.writeScr_pc (v : Word) : (s.writeScr v).pc = s.pc := rfl
@[simp] theorem State.writeScr_el (v : Word) : (s.writeScr v).el = s.el := rfl
@[simp] theorem State.writeScr_a (v : Word) : (s.writeScr v).a = s.a := rfl
@[simp] theorem State.writeScr_inputs (v : Word) : (s.writeScr v).inputs = s.inputs := rfl
@[simp] theorem State.writeScr_marks (v : Word) : (s.writeScr v).marks = s.marks := rfl
@[simp] theorem State.writeScr_asserted (v : Word) : (s.writeScr v).asserted = s.asserted := rfl
@[simp] theorem State.writeScr_held (v : Word) : (s.writeScr v).held = s.held.add (eff s.params (legal s.params v)) := rfl
@[simp] theorem State.writeScr_window (v : Word) : (s.writeScr v).window = s.window ++ [s.scr] := rfl
@[simp] theorem State.writeScr_mem (v : Word) : (s.writeScr v).mem = s.mem := rfl
@[simp] theorem State.writeScr_draws (v : Word) : (s.writeScr v).draws = s.draws := rfl
@[simp] theorem State.writeScr_events (v : Word) : (s.writeScr v).events = s.events := rfl
@[simp] theorem State.writeScr_answer (v : Word) : (s.writeScr v).answer = s.answer := rfl
@[simp] theorem State.writeScr_writtenSinceReset (v : Word) : (s.writeScr v).writtenSinceReset = true := rfl

/-! ## doReset -/

@[simp] theorem State.doReset_params : (s.doReset).params = s.params := rfl
@[simp] theorem State.doReset_scr : (s.doReset).scr = resetScr s.params (Config.unknownScr s.draws) := rfl
@[simp] theorem State.doReset_x : (s.doReset).x = Vector.replicate 31 0 := rfl
@[simp] theorem State.doReset_pc : (s.doReset).pc = 0 := rfl
@[simp] theorem State.doReset_el : (s.doReset).el = s.params.resetLevel := rfl
@[simp] theorem State.doReset_a : (s.doReset).a = true := rfl
@[simp] theorem State.doReset_inputs : (s.doReset).inputs = s.inputs := rfl
@[simp] theorem State.doReset_marks : (s.doReset).marks = s.marks := rfl
@[simp] theorem State.doReset_asserted : (s.doReset).asserted = s.asserted := rfl
@[simp] theorem State.doReset_held : (s.doReset).held = s.held.add (eff s.params (resetScr s.params (Config.unknownScr s.draws))) := rfl
@[simp] theorem State.doReset_window : (s.doReset).window = [] := rfl
@[simp] theorem State.doReset_mem : (s.doReset).mem = s.mem := rfl
@[simp] theorem State.doReset_draws : (s.doReset).draws = s.draws + 1 := rfl
@[simp] theorem State.doReset_events : (s.doReset).events = s.events := rfl
@[simp] theorem State.doReset_answer : (s.doReset).answer = none := rfl
@[simp] theorem State.doReset_writtenSinceReset : (s.doReset).writtenSinceReset = false := rfl

/-! ## ctxSync -/

@[simp] theorem State.ctxSync_params : (s.ctxSync).params = s.params := rfl
@[simp] theorem State.ctxSync_scr : (s.ctxSync).scr = s.scr := rfl
@[simp] theorem State.ctxSync_x : (s.ctxSync).x = s.x := rfl
@[simp] theorem State.ctxSync_pc : (s.ctxSync).pc = s.pc := rfl
@[simp] theorem State.ctxSync_el : (s.ctxSync).el = s.el := rfl
@[simp] theorem State.ctxSync_a : (s.ctxSync).a = s.a := rfl
@[simp] theorem State.ctxSync_inputs : (s.ctxSync).inputs = s.inputs := rfl
@[simp] theorem State.ctxSync_marks : (s.ctxSync).marks = s.marks := rfl
@[simp] theorem State.ctxSync_asserted : (s.ctxSync).asserted = s.asserted := rfl
@[simp] theorem State.ctxSync_held : (s.ctxSync).held = s.held := rfl
@[simp] theorem State.ctxSync_window : (s.ctxSync).window = [] := rfl
@[simp] theorem State.ctxSync_mem : (s.ctxSync).mem = s.mem := rfl
@[simp] theorem State.ctxSync_draws : (s.ctxSync).draws = s.draws := rfl
@[simp] theorem State.ctxSync_events : (s.ctxSync).events = s.events := rfl
@[simp] theorem State.ctxSync_answer : (s.ctxSync).answer = s.answer := rfl
@[simp] theorem State.ctxSync_writtenSinceReset : (s.ctxSync).writtenSinceReset = s.writtenSinceReset := rfl

/-! ## tlbInvalidate -/

@[simp] theorem State.tlbInvalidate_params : (s.tlbInvalidate).params = s.params := rfl
@[simp] theorem State.tlbInvalidate_scr : (s.tlbInvalidate).scr = s.scr := rfl
@[simp] theorem State.tlbInvalidate_x : (s.tlbInvalidate).x = s.x := rfl
@[simp] theorem State.tlbInvalidate_pc : (s.tlbInvalidate).pc = s.pc := rfl
@[simp] theorem State.tlbInvalidate_el : (s.tlbInvalidate).el = s.el := rfl
@[simp] theorem State.tlbInvalidate_a : (s.tlbInvalidate).a = s.a := rfl
@[simp] theorem State.tlbInvalidate_inputs : (s.tlbInvalidate).inputs = s.inputs := rfl
@[simp] theorem State.tlbInvalidate_marks : (s.tlbInvalidate).marks = s.marks := rfl
@[simp] theorem State.tlbInvalidate_asserted : (s.tlbInvalidate).asserted = s.asserted := rfl
@[simp] theorem State.tlbInvalidate_held : (s.tlbInvalidate).held = heldAfterInvalidate s.params s.scr s.window := rfl
@[simp] theorem State.tlbInvalidate_window : (s.tlbInvalidate).window = s.window := rfl
@[simp] theorem State.tlbInvalidate_mem : (s.tlbInvalidate).mem = s.mem := rfl
@[simp] theorem State.tlbInvalidate_draws : (s.tlbInvalidate).draws = s.draws := rfl
@[simp] theorem State.tlbInvalidate_events : (s.tlbInvalidate).events = s.events := rfl
@[simp] theorem State.tlbInvalidate_answer : (s.tlbInvalidate).answer = s.answer := rfl
@[simp] theorem State.tlbInvalidate_writtenSinceReset : (s.tlbInvalidate).writtenSinceReset = s.writtenSinceReset := rfl

/-! ## drawn -/

@[simp] theorem State.drawn_params : (s.drawn).params = s.params := rfl
@[simp] theorem State.drawn_scr : (s.drawn).scr = s.scr := rfl
@[simp] theorem State.drawn_x : (s.drawn).x = s.x := rfl
@[simp] theorem State.drawn_pc : (s.drawn).pc = s.pc := rfl
@[simp] theorem State.drawn_el : (s.drawn).el = s.el := rfl
@[simp] theorem State.drawn_a : (s.drawn).a = s.a := rfl
@[simp] theorem State.drawn_inputs : (s.drawn).inputs = s.inputs := rfl
@[simp] theorem State.drawn_marks : (s.drawn).marks = s.marks := rfl
@[simp] theorem State.drawn_asserted : (s.drawn).asserted = s.asserted := rfl
@[simp] theorem State.drawn_held : (s.drawn).held = s.held := rfl
@[simp] theorem State.drawn_window : (s.drawn).window = s.window := rfl
@[simp] theorem State.drawn_mem : (s.drawn).mem = s.mem := rfl
@[simp] theorem State.drawn_draws : (s.drawn).draws = s.draws + 1 := rfl
@[simp] theorem State.drawn_events : (s.drawn).events = s.events := rfl
@[simp] theorem State.drawn_answer : (s.drawn).answer = s.answer := rfl
@[simp] theorem State.drawn_writtenSinceReset : (s.drawn).writtenSinceReset = s.writtenSinceReset := rfl

/-! ## The general registers -/

theorem State.readX_of_lt {t : Nat} (h : t < 31) : s.readX t = s.x[t] := by simp [State.readX, h]

@[simp] theorem State.readX_zero {t : Nat} (h : 31 ≤ t) : s.readX t = 0 := by
  simp [State.readX, Nat.not_lt.mpr h]

/-- The zero register discards what is written to it (D6). -/
@[simp] theorem State.writeX_zero {t : Nat} (h : 31 ≤ t) (v : Word) : s.writeX t v = s := by
  simp [State.writeX, Nat.not_lt.mpr h]

theorem State.readX_writeX_same {t : Nat} (h : t < 31) (v : Word) : (s.writeX t v).readX t = v := by
  simp [State.writeX, State.readX, h]

theorem State.readX_writeX_other {t u : Nat} (h : u ≠ t) (v : Word) : (s.writeX t v).readX u = s.readX u := by
  unfold State.writeX
  split
  · simp only [State.readX]
    split
    · exact Vector.getElem_set_ne _ _ (Ne.symm h)
    · rfl
  · rfl

/-- A read depends on the register file alone. -/
theorem State.readX_congr {s s' : State} (h : s'.x = s.x) (t : Nat) : s'.readX t = s.readX t := by
  simp [State.readX, h]

end Sys2Proof.Machine
end

