-- ==== Sys2Proof/Laws/Ops.lean ====
section
/-!
SUPPORT. Everything the shared operations can do, said once: completing an access, the two accesses, the draws, the
judgement of an operation.
-/

namespace Sys2Proof.Machine

/-! ## Completing an access -/

/-- A completed access moves the pc by 4 and changes nothing else (rule R72, D7). -/
theorem completed_next {s s' : State} (h : s.completed = .next s') :
    s.pc.toNat < 2 ^ 64 - 4 ∧ s' = { s with pc := s.pc + 4 } := by
  unfold State.completed at h
  split at h
  · cases h
  · rename_i hp
    cases h
    exact ⟨Nat.lt_of_not_le hp, rfl⟩

theorem completed_of_lt {s : State} (h : s.pc.toNat < 2 ^ 64 - 4) :
    s.completed = .next { s with pc := s.pc + 4 } := by
  rw [State.completed, if_neg (Nat.not_le.mpr h)]

@[simp] theorem State.atEL3_iff (s : State) : s.atEL3 = true ↔ s.el = .el3 := by simp [State.atEL3]

/-! ## The two accesses -/

/-- What an MRS can do when it answers a next state. -/
theorem execMrsScr_next {s s' : State} {t : Nat} (h : execMrsScr t s = .next s') :
    s.el = .el3 ∧ s.pc.toNat < 2 ^ 64 - 4 ∧ s' = { s.writeX t s.scr with pc := s.pc + 4 } := by
  unfold execMrsScr raise at h
  split at h
  · rename_i hl
    obtain ⟨hp, rfl⟩ := completed_next h
    exact ⟨s.atEL3_iff.mp hl, by simpa using hp, by simp⟩
  · cases h

/-- What an MSR can do when it answers a next state. -/
theorem execMsrScr_next {s s' : State} {t : Nat} (h : execMsrScr t s = .next s') :
    s.el = .el3 ∧ s.pc.toNat < 2 ^ 64 - 4 ∧ s' = { s.writeScr (s.readX t) with pc := s.pc + 4 } := by
  unfold execMsrScr raise at h
  split at h
  · rename_i hl
    obtain ⟨hp, rfl⟩ := completed_next h
    exact ⟨s.atEL3_iff.mp hl, by simpa using hp, by simp⟩
  · cases h

/-! ## Draws -/

/-- The governing value is SCR_EL3 or a value still visible (rule R56). -/
theorem governing_mem (s : State) (n : Nat) : s.governing n = s.scr ∨ s.governing n ∈ s.window := by
  unfold State.governing
  split
  · exact .inl rfl
  · cases hg : (s.window ++ [s.scr])[n % (s.window.length + 1)]? with
    | none => exact .inl rfl
    | some w =>
      have := List.mem_of_getElem? hg
      simp only [List.mem_append, List.mem_singleton] at this
      simpa [or_comm] using this

/-- A cacheable field is seen at its current value or at the other one, where that one is held (rule R52). -/
theorem Held.pick_cases (h : Held) (cur c : Bool) :
    h.pick cur c = cur ∨ (h.pick cur c = !cur ∧ (if cur then h.zero else h.one) = true) := by
  unfold Held.pick
  cases cur <;> cases c <;> cases hz : h.zero <;> cases ho : h.one <;> simp

/-- With an empty window SCR_EL3 governs (rule R56). -/
theorem governing_of_empty {s : State} (h : s.window = []) (n : Nat) : s.governing n = s.scr := by
  simp [State.governing, h]

/-- Without TLB copies the current value is used (rule R52, D9). -/
@[simp] theorem copyOr_of_none {p : Params} (hp : p.tlbModel = .none) (h : Held) (cur c : Bool) :
    copyOr p h cur c = cur := by
  simp [copyOr, hp]

/-- A use of a cacheable field gives its current value, or with TLB copies the other one, where that one is held. -/
theorem copyOr_cases (p : Params) (h : Held) (cur c : Bool) :
    copyOr p h cur c = cur ∨ (p.tlbModel = .draw ∧ h.has (copyOr p h cur c) = true) := by
  unfold copyOr
  cases hp : p.tlbModel
  · exact .inl rfl
  · rcases h.pick_cases cur c with hc | ⟨hc, hh⟩
    · exact .inl hc
    · right
      simp only [hc]
      cases cur <;> simpa [Held.has] using hh

/-- A control that no TLB copy serves is seen at its Effective value in the governing value (rule R52). -/
theorem seen_of_not_served {f : Field} (hf : servedByCopy f = false) (p : Params) (h : TlbHeld) (v w : Word) (c : Nat) :
    seen p h v w c f = eff p v f := by
  cases f <;> first | rfl | cases hf

/-- Without TLB copies, and with one value visible, the controls are its Effective values. -/
theorem seen_of_none {p : Params} (hp : p.tlbModel = .none) (h : TlbHeld) (v : Word) (c : Nat) :
    seen p h v v c = eff p v := by
  funext f
  cases f <;> simp [seen, hp, eff, effST, effRW]

/-- Where a field is settled, every evaluation sees its Effective value in SCR_EL3 (rules R52, R56). -/
theorem controls_of_settledFor {s : State} {f : Field} (h : s.settledFor f = true) (r : Evaluation) :
    s.controls r f = eff s.params s.scr f := by
  simp only [State.settledFor, Bool.and_eq_true, Bool.or_eq_true, decide_eq_true_eq, Bool.not_eq_true'] at h
  rw [State.controls, governing_of_empty h.1, governing_of_empty h.1]
  rcases h.2 with hn | hf
  · rw [seen_of_none hn]
  · exact seen_of_not_served hf _ _ _ _ _

/-! ## Judging an operation -/

/-- A contested fault: not affected, the fault, or (with a rival) the other outcome. -/
theorem contested_cases (c : Attempt) (applies : Bool) (f : Fault) :
    (applies = false ∧ contested c applies f = .next .notAffected) ∨
    (applies = true ∧ contested c applies f = .fault f) ∨
    (applies = true ∧ c.rival = true ∧ contested c applies f = .next .claimedElsewhere) := by
  unfold contested raise
  cases applies
  · simp
  · cases c.rival <;> cases c.rivalPick <;> simp

/-- An operation the implementation has, asked where D3 admits it, is judged by its rule. -/
theorem judge_of_available {c : Attempt} {op : Operation} (ha : op.available c.params = true)
    (h3 : (c.params.haveEL3 || op.withoutEL3) = true) (w : View) : judge c w op = judgeOp c w op := by
  rw [judge, if_pos ha, if_pos h3]

/-- A step on a state whose next event is an attempt. -/
theorem step_attempt {s : State} {op : Operation} {rival : Bool} {rest : List Event}
    (h : s.events = .attempt op rival :: rest) :
    step s = { s with events := rest }.answered (judge (s.attempt rival) s.controls op) := by
  rw [step, h]
  rfl

end Sys2Proof.Machine
end

