-- ==== Sys2Proof/Laws/Effects.lean ====
section
/-!
SUPPORT. When each predicate of Effects.lean holds, in plain propositions, and what a step does with an attempted
operation, an offered interrupt or an External abort.
-/

namespace Sys2Proof.Machine

/-! ## The predicates -/

theorem belowEL3_iff {el : EL} : belowEL3 el = true ↔ el ≠ .el3 := by cases el <;> simp [belowEL3]

theorem atEL1orEL2_iff {el : EL} : atEL1orEL2 el = true ↔ el = .el1 ∨ el = .el2 := by cases el <;> simp [atEL1orEL2]

theorem tagAccessPrevented_iff {e : Controls} {el : EL} :
    tagAccessPrevented e el = true ↔ el ≠ .el3 ∧ e .ata = false := by
  simp [tagAccessPrevented, belowEL3_iff]

theorem trapSCXT_iff {e : Controls} {el : EL} {r : ScxtReg} :
    trapSCXT e el r = true ↔ e .enscxt = false ∧
      ((r = .scxtnumEl0 ∧ el ≠ .el3) ∨ (r = .scxtnumEl1 ∧ (el = .el1 ∨ el = .el2)) ∨ (r = .scxtnumEl2 ∧ el = .el2)) := by
  cases r <;> cases el <;> simp [trapSCXT, scxtListed]

theorem trapFaultInjection_iff {e : Controls} {el : EL} :
    trapFaultInjection e el = true ↔ e .fien = false ∧ (el = .el1 ∨ el = .el2) := by
  simp [trapFaultInjection, atEL1orEL2_iff]

theorem trapAArch32SecureOp_iff {el : EL} {sec a : Bool} :
    trapAArch32SecureOp el sec a = true ↔ el = .el1 ∧ sec = true ∧ a = true := by
  simp [trapAArch32SecureOp, and_assoc]

theorem trapPAuthInstr_iff {e : Controls} {el : EL} {enabled toEL2 : Bool} :
    trapPAuthInstr e el enabled toEL2 = true ↔ e .api = false ∧ el ≠ .el3 ∧ enabled = true ∧ toEL2 = false := by
  simp [trapPAuthInstr, belowEL3_iff, and_assoc]

theorem trapPAuthKey_iff {e : Controls} {el : EL} {toEL2 : Bool} :
    trapPAuthKey e el toEL2 = true ↔ e .apk = false ∧ (el = .el1 ∨ el = .el2) ∧ toEL2 = false := by
  simp [trapPAuthKey, atEL1orEL2_iff, and_assoc]

theorem trapErrorRecord_iff {e : Controls} {el : EL} {ras84 a : Bool} {r : ErrorReg} :
    trapErrorRecord e el ras84 a r = true ↔
      e .terr = true ∧ (el = .el1 ∨ el = .el2) ∧ errorRecordReg ras84 a r = true := by
  simp [trapErrorRecord, atEL1orEL2_iff, and_assoc]

theorem trapLOR_iff {e : Controls} {el : EL} {u toEL2 : Bool} :
    trapLOR e el u toEL2 = true ↔ e .tlor = true ∧ (el = .el1 ∨ el = .el2) ∧ u = false ∧ toEL2 = false := by
  simp [trapLOR, atEL1orEL2_iff, and_assoc]

theorem trapWfx_iff {c : Bool} {el : EL} {ws lower a cc : Bool} :
    trapWfx c el ws lower a cc = true ↔
      c = true ∧ el ≠ .el3 ∧ ws = true ∧ lower = false ∧ (a = true → cc = true) := by
  cases a <;> simp [trapWfx, belowEL3_iff, and_assoc]

theorem trapSecureTimer_iff {e : Controls} {el : EL} {sec a : Bool} :
    trapSecureTimer e el sec a = true ↔ e .st = false ∧ el = .el1 ∧ sec = true ∧ a = false := by
  simp [trapSecureTimer, and_assoc]

theorem secureMemoryForbidden_iff {e : Controls} {el : EL} {toSecure : Bool} :
    secureMemoryForbidden e el toSecure = true ↔ e .ns = true ∧ el ≠ .el3 ∧ toSecure = true := by
  simp [secureMemoryForbidden, belowEL3_iff, and_assoc]

theorem hvcUndefined_iff {e : Controls} {el : EL} {sec : Bool} :
    hvcUndefined e el sec = true ↔ e .hce = false ∨ el = .el0 ∨ (el = .el1 ∧ sec = true ∧ e .eel2 = false) := by
  simp [hvcUndefined, and_assoc, or_assoc]

theorem smcUndefined_iff {e : Controls} {el : EL} : smcUndefined e el = true ↔ el = .el0 ∨ e .smd = true := by
  simp [smcUndefined]

/-- A region meets the bytes exactly when they have a byte in common (log 12). -/
theorem Region.meets_iff {r : Region} {a n : Nat} :
    r.meets a n = true ↔ ∃ b, a ≤ b ∧ b < a + n ∧ r.base ≤ b ∧ b < r.base + r.size := by
  simp only [Region.meets, Bool.and_eq_true, decide_eq_true_eq]
  constructor
  · rintro ⟨⟨⟨hs, hn⟩, h1⟩, h2⟩
    exact ⟨max a r.base, by omega, by omega, by omega, by omega⟩
  · rintro ⟨b, h1, h2, h3, h4⟩
    omega

theorem marked_iff {s : State} {k : Mark} {a : Word} {n : Nat} :
    marked s.marks k a.toNat n = true ↔ s.touches k a n := by
  simp only [marked, List.any_eq_true, Bool.and_eq_true, decide_eq_true_eq, Region.meets_iff, State.touches]
  constructor
  · rintro ⟨r, hr, hk, b, h1, h2, h3, h4⟩
    exact ⟨b, h1, h2, r, hr, hk, h3, h4⟩
  · rintro ⟨b, h1, h2, r, hr, hk, h3, h4⟩
    exact ⟨r, hr, hk, b, h1, h2, h3, h4⟩

/-- At EL1 the level is Secure exactly when NS is seen at 0 (rule R107). -/
theorem secure_at_el1 {c : Attempt} {w : View} (h : c.el = .el1) : c.secure w = !w .security .ns := by
  simp [Attempt.secure, secureAt, h]

/-! ## Steps -/

/-- The step of a state that asks an operation, where the implementation has it and D3 admits it. -/
theorem step_of_asks {s : State} {op : Operation} {rival : Bool} (h : Asks s op rival)
    (ha : op.available s.params = true) (h3 : (s.params.haveEL3 || op.withoutEL3) = true) :
    step s = { s with events := s.events.tail }.answered (judgeOp (s.attempt rival) s.controls op) := by
  obtain ⟨rest, he⟩ := h
  rw [step_attempt he, judge_of_available (c := s.attempt rival) ha h3, he]
  rfl

/-- A step that records an answer. -/
theorem answers_of_step {s : State} {a : Answer} {o : Host.Outcome Answer Fault Refusal}
    (h : step s = { s with events := s.events.tail }.answered o) (ho : o = .next a) : Answers s a := by
  rw [Answers, h, ho]
  rfl

/-- An operation judged by one contested fault: the predicate decides, but for a rival. -/
theorem step_of_contested {s : State} {rival b : Bool} {f : Fault}
    (h : step s = { s with events := s.events.tail }.answered (contested (s.attempt rival) b f)) :
    (b = true → Raises s rival f) ∧ (¬b = true → Answers s .notAffected) := by
  rcases contested_cases (s.attempt rival) b f with ⟨rfl, e⟩ | ⟨rfl, e⟩ | ⟨rfl, hr, e⟩
  · exact ⟨fun hb => (Bool.false_ne_true hb).elim, fun _ => answers_of_step h e⟩
  · exact ⟨fun _ => .inl (by rw [h, e]; rfl), fun hb => absurd rfl hb⟩
  · exact ⟨fun _ => .inr ⟨hr, answers_of_step h e⟩, fun hb => absurd rfl hb⟩

/-- An operation judged by one fault of its own: the predicate alone decides the step. -/
theorem step_of_decided {s : State} {b : Bool} {f : Fault}
    (h : step s = { s with events := s.events.tail }.answered (decided b f)) :
    (b = true → step s = .fault f) ∧ (¬b = true → Answers s .notAffected) := by
  cases b
  · exact ⟨fun hb => absurd hb (by simp), fun _ => h⟩
  · exact ⟨fun _ => h, fun hb => absurd rfl hb⟩

/-- An armed WFE or WFI traps or completes, and nothing else (rule R97). -/
theorem step_of_wfx {s : State} {rival armed : Bool} {op : Operation}
    (h : step s = { s with events := s.events.tail }.answered (judgeWfx (s.attempt rival) op armed)) :
    (armed = true → step s = .fault (.trapToEL3 op) ∨ Answers s .completesAsNop) ∧
    (¬armed = true → Answers s .notAffected) := by
  cases armed
  · exact ⟨fun ha => (Bool.false_ne_true ha).elim, fun _ => answers_of_step h rfl⟩
  · refine ⟨fun _ => ?_, fun hn => absurd rfl hn⟩
    rw [judgeWfx, if_pos rfl] at h
    split at h
    · exact .inl h
    · exact .inr (answers_of_step h rfl)

/-- What an attempted SMC does: its rule alone decides, but for a rival at EL1 and EL2 (rule R103). -/
theorem step_of_smc {s : State} {rival : Bool} {e : Controls}
    (h : step s = { s with events := s.events.tail }.answered (judgeSmc (s.attempt rival) e)) :
    (smcUndefined e s.el = true →
      step s = .fault (.undefined .smc) ∨
        ((s.el = .el1 ∨ s.el = .el2) ∧ rival = true ∧ Answers s .claimedElsewhere)) ∧
    (¬smcUndefined e s.el = true → Answers s .notAffected) := by
  unfold judgeSmc at h
  split at h
  · rename_i hl
    have c := step_of_contested h
    exact ⟨fun hu => (c.1 hu).imp id fun r => ⟨atEL1orEL2_iff.mp hl, r⟩, c.2⟩
  · have c := step_of_decided h
    exact ⟨fun hu => .inl (c.1 hu), c.2⟩

/-- What the routing does with an interrupt or abort that comes next (rule R142). -/
def Routed (s : State) (src : Source) : Routing → Prop
  | .toEL3 => step s = .fault (.takenToEL3 src (handlerOf (s.attempt false) s.controls src))
  | .pending => Answers s .staysPending
  | .notToEL3 => Answers s .notTakenToEL3
  | .notStated => step s = .refused (.lostList src)

/-- What is judged as a source goes where the routing says. -/
theorem routed_of_step {s : State} {src : Source} (h3 : s.params.haveEL3 = true)
    (h : step s = { s with events := s.events.tail }.answered (judgeSource (s.attempt false) s.controls s.a src)) :
    Routed s src (route s.controls s.el s.a src) := by
  rw [judgeSource, if_pos (show (s.attempt false).params.haveEL3 = true from h3)] at h
  cases hr : route s.controls (s.attempt false).el s.a src <;> rw [hr] at h <;>
    rw [show route s.controls s.el s.a src = _ from hr] <;> exact h

/-- An offered interrupt goes where the routing says. -/
theorem step_of_offers {s : State} {k : Interrupt} (h : Offers s k) :
    Routed s (.interrupt k) (route s.controls s.el s.a (.interrupt k)) := by
  obtain ⟨rest, he⟩ := h.event
  refine routed_of_step h.haveEL3 ?_
  rw [step, he]
  simp only [deliver, State.offered, h.asserted, if_true]
  rfl

/-- An External abort goes where the routing says. -/
theorem step_of_aborts {s : State} {b : Bool} (h : Aborts s b) :
    Routed s (.externalAbort b) (route s.controls s.el s.a (.externalAbort b)) := by
  obtain ⟨rest, he⟩ := h.event
  refine routed_of_step h.haveEL3 ?_
  rw [step, he]
  rfl

end Sys2Proof.Machine
end

