-- ==== Sys2Proof/Laws/Events.lean ====
section
/-!
SUPPORT. Everything an event, a fetch and a step can do, said once.
-/

namespace Sys2Proof.Machine

/-- An answered state differs in the draws and the answer alone. -/
theorem answered_next {s s' : State} {o : Host.Outcome Answer Fault Refusal} (h : s.answered o = .next s') :
    ∃ a, o = .next a ∧ s' = { s with draws := s.draws + 1, answer := some a } := by
  cases o with
  | next a => cases h; exact ⟨a, rfl, rfl⟩
  | fault f => cases h
  | refused r => cases h

/-- Everything an event can do when it answers a next state. -/
theorem deliver_next {ev : Event} {s s' : State} (h : deliver ev s = .next s') :
    (ev = .reset ∧ s' = s.doReset) ∨
    (ev = .ctxSync ∧ s' = s.ctxSync) ∨
    (ev = .tlbInvalidate ∧ s' = s.tlbInvalidate) ∨
    (∃ n v, ev = .setX n v ∧ s' = s.writeX n v) ∨
    (∃ l, ev = .setEL l ∧ s.params.hasLevel l = true ∧ s' = { s with el := l }) ∨
    (∃ b, ev = .setA b ∧ s' = { s with a := b }) ∨
    (∃ i, ev = .setInputs i ∧ s' = { s with inputs := i }) ∨
    (∃ m, ev = .setMarks m ∧ s' = { s with marks := m }) ∨
    (∃ k b, (ev = .assert k ∨ ev = .deassert k) ∧ s' = { s with asserted := s.asserted.set k b }) ∨
    (∃ d a, (∀ x, ev ≠ .setEL x) ∧ ev ≠ .reset ∧ s' = { s with draws := d, answer := some a }) := by
  cases ev with
  | reset => cases h; simp
  | ctxSync => cases h; simp
  | tlbInvalidate => cases h; simp
  | setX n v => cases h; simp
  | setEL l =>
    simp only [deliver, State.setLevel] at h
    split at h
    · rename_i hl
      cases h
      simp [hl]
    · cases h
  | setA b => cases h; simp
  | setInputs i => cases h; simp
  | setMarks m => cases h; simp
  | assert k => cases h; simp
  | deassert k => cases h; simp
  | attempt op rival =>
    obtain ⟨a, -, rfl⟩ := answered_next h
    simp
  | externalAbort b =>
    obtain ⟨a, -, rfl⟩ := answered_next h
    simp
  | offer k =>
    simp only [deliver, State.offered] at h
    split at h
    · obtain ⟨a, -, rfl⟩ := answered_next h
      simp
    · cases h
      simp

/-- A permitted fetch changes at most the draws. -/
theorem fetchChecked_next {s s' : State} (h : s.fetchChecked = .next s') :
    (s.fetchMarked = false ∧ s' = s) ∨
    (s.fetchMarked = true ∧ (∃ a, judge (s.attempt false) s.controls (.fetch s.pc) = .next a) ∧ s' = s.drawn) := by
  unfold State.fetchChecked at h
  split at h
  · rename_i hm
    split at h
    · rename_i a ha
      cases h
      exact .inr ⟨hm, ⟨a, ha⟩, rfl⟩
    · cases h
    · cases h
  · rename_i hm
    cases h
    exact .inl ⟨by simpa using hm, rfl⟩

/-- What a fetch can do when it gives an instruction. -/
theorem fetch_next {s s' : State} {i : Instr} (h : fetch s = .next (i, s')) :
    s.fetchChecked = .next s' ∧ fetchDecode s.mem s.pc = .next i := by
  unfold fetch at h
  split at h
  · cases h
  · cases h
  · rename_i hc
    split at h
    · cases h
    · cases h
    · rename_i hd
      cases h
      exact ⟨hc, hd⟩

/-- A fetched instruction stands in four bytes at the pc that decode to it. -/
theorem fetchDecode_next {m : List Host.Cell} {pc : Word} {i : Instr} (h : fetchDecode m pc = .next i) :
    ∃ bs rest, readBytes m pc.toNat 4 = some bs ∧ decode bs = .ok (i, rest) := by
  unfold fetchDecode at h
  split at h
  · cases h
  · rename_i bs hb
    split at h
    · rename_i j rest hd
      cases h
      exact ⟨bs, rest, hb, hd⟩
    · cases h
    · cases h

/-- Everything a step can do when it answers a next state: an event is delivered, or an instruction is fetched and
runs, at most the draws having changed before it. -/
theorem step_next {s s' : State} (h : step s = .next s') :
    (∃ ev rest, s.events = ev :: rest ∧ deliver ev { s with events := rest } = .next s') ∨
    (∃ i d, s.events = [] ∧ fetchDecode s.mem s.pc = .next i ∧ exec i { s with draws := d } = .next s') := by
  unfold step at h
  split at h
  · rename_i ev rest he
    exact .inl ⟨ev, rest, he, h⟩
  · rename_i he
    split at h
    · rename_i i s1 hf
      obtain ⟨hc, hd⟩ := fetch_next hf
      rcases fetchChecked_next hc with ⟨-, rfl⟩ | ⟨-, -, rfl⟩
      · exact .inr ⟨i, _, he, hd, h⟩
      · exact .inr ⟨i, _, he, hd, h⟩
    · cases h
    · cases h

end Sys2Proof.Machine
end

