-- ==== Sys2Proof/Laws/Fields.lean ====
section
/-!
SUPPORT. SCR_EL3 read bit by bit: what `legal`, `resetScr` and `stored` do to one bit.
-/

namespace Sys2Proof

/-- The figure has each field at its bit (rules R10, R11). -/
@[simp] theorem fieldAt_bit (f : Field) : fieldAt f.bit = some f := by cases f <;> rfl

theorem Field.bit_lt (f : Field) : f.bit < 64 := by cases f <;> decide

/-- One bit of the legal value is the legal form of that bit (rule R43). -/
theorem legal_getLsbD (p : Params) (v : Word) {n : Nat} (h : n < 64) :
    (legal p v).getLsbD n = legalBit p n (v.getLsbD n) := by
  simp [legal, h]

/-- A present field that is not RAO/WI stores the bit offered (rules R35, R43). -/
theorem stored_legal (p : Params) (v : Word) {f : Field} (hp : f.present p = true)
    (hr : f = .rw → rwIsRAO p = false) : stored (legal p v) f = stored v f := by
  rw [stored, legal_getLsbD p v f.bit_lt, legalBit, fieldAt_bit]
  by_cases hf : f = .rw <;> simp_all [stored]

/-- The two cleared fields are the two bits of the mask (rule R161). -/
theorem resetClears_getLsbD (n : Nat) : resetClears.getLsbD n = (decide (n = 20) || decide (n = 19)) := by
  by_cases h : n < 64
  · revert n
    decide
  · rw [BitVec.getLsbD_of_ge _ _ (Nat.le_of_not_lt h)]
    simp
    omega

end Sys2Proof
end

