-- ==== Sys2Proof/Laws/Memory.lean ====
section
/-!
SUPPORT. The laws of the instruction memory: a read after a write, and the canonical form every write keeps.
-/

namespace Sys2Proof.Machine

theorem readByte_insertByte_same (m : List Host.Cell) (a : Nat) (b : Byte) : readByte (insertByte m a b) a = some b := by
  induction m with
  | nil => simp [insertByte, readByte]
  | cons c m ih =>
    simp only [insertByte]
    split
    · simp [readByte]
    · split
      · simp [readByte]
      · rename_i h
        simp [readByte, Ne.symm h, ih]

theorem readByte_insertByte_other (m : List Host.Cell) {a a' : Nat} (b : Byte) (h : a' ≠ a) :
    readByte (insertByte m a b) a' = readByte m a' := by
  induction m with
  | nil => simp [insertByte, readByte, Ne.symm h]
  | cons c m ih =>
    simp only [insertByte]
    split
    · simp [readByte, Ne.symm h]
    · split
      · rename_i _ hc
        simp [readByte, ← hc, Ne.symm h]
      · simp [readByte, ih]

theorem readByte_writeByte_same (m : List Host.Cell) {a : Nat} (b : Byte) (h : a < 2 ^ 64) :
    readByte (writeByte m a b) a = some b := by
  rw [writeByte, if_pos h, readByte_insertByte_same]

theorem readByte_writeByte_other (m : List Host.Cell) {a a' : Nat} (b : Byte) (h : a' ≠ a) :
    readByte (writeByte m a b) a' = readByte m a' := by
  unfold writeByte
  split
  · exact readByte_insertByte_other m b h
  · rfl

/-- Bytes below the first written address keep their values. -/
theorem readByte_writeBytes_below (bs : List Byte) (m : List Host.Cell) {a a' : Nat} (h : a' < a) :
    readByte (writeBytes m a bs) a' = readByte m a' := by
  induction bs generalizing m a with
  | nil => rfl
  | cons b bs ih =>
    rw [writeBytes, ih _ (Nat.lt_succ_of_lt h), readByte_writeByte_other _ _ (Nat.ne_of_lt h)]

/-- Bytes written inside the address space are read back. -/
theorem readBytes_writeBytes (bs : List Byte) (m : List Host.Cell) (a : Nat) (h : a + bs.length ≤ 2 ^ 64) :
    readBytes (writeBytes m a bs) a bs.length = some bs := by
  induction bs generalizing m a with
  | nil => rfl
  | cons b bs ih =>
    have hl : a + 1 + bs.length ≤ 2 ^ 64 := by simp only [List.length_cons] at h; omega
    have ha : a < 2 ^ 64 := by omega
    simp only [List.length_cons, readBytes, writeBytes]
    rw [ih _ _ hl, readByte_writeBytes_below _ _ (Nat.lt_succ_self a), readByte_writeByte_same _ _ ha]

theorem mem_insertByte {m : List Host.Cell} {a : Nat} {b : Byte} {c : Host.Cell} (h : c ∈ insertByte m a b) :
    c = (a, b) ∨ c ∈ m := by
  induction m with
  | nil => simpa [insertByte] using h
  | cons d m ih =>
    simp only [insertByte] at h
    split at h
    · simpa using h
    · split at h
      · rcases List.mem_cons.mp h with h | h
        · exact .inl h
        · exact .inr (List.mem_cons_of_mem _ h)
      · rcases List.mem_cons.mp h with h | h
        · exact .inr (h ▸ List.mem_cons_self)
        · exact (ih h).imp id (List.mem_cons_of_mem _)

theorem insertByte_sorted {m : List Host.Cell} (a : Nat) (b : Byte) (h : m.Pairwise (fun c d => c.1 < d.1)) :
    (insertByte m a b).Pairwise (fun c d => c.1 < d.1) := by
  induction m with
  | nil => simp [insertByte]
  | cons c m ih =>
    obtain ⟨hc, hm⟩ := List.pairwise_cons.mp h
    simp only [insertByte]
    split
    · rename_i hac
      refine List.pairwise_cons.mpr ⟨fun d hd => ?_, h⟩
      rcases List.mem_cons.mp hd with rfl | hd
      · exact hac
      · exact Nat.lt_trans hac (hc d hd)
    · split
      · rename_i hac
        exact List.pairwise_cons.mpr ⟨fun d hd => by simpa [hac] using hc d hd, hm⟩
      · rename_i h1 h2
        refine List.pairwise_cons.mpr ⟨fun d hd => ?_, ih hm⟩
        rcases mem_insertByte hd with rfl | hd
        · show c.1 < a
          omega
        · exact hc d hd

/-- Every write keeps the canonical form of memory. -/
theorem writeByte_wf {m : List Host.Cell} (a : Nat) (b : Byte) (h : Memory.wf m) : Memory.wf (writeByte m a b) := by
  unfold writeByte
  split
  · rename_i ha
    refine ⟨insertByte_sorted a b h.1, fun c hc => ?_⟩
    rcases mem_insertByte hc with rfl | hc
    · exact ha
    · exact h.2 c hc
  · exact h

theorem writeBytes_wf (bs : List Byte) {m : List Host.Cell} (a : Nat) (h : Memory.wf m) :
    Memory.wf (writeBytes m a bs) := by
  induction bs generalizing m a with
  | nil => exact h
  | cons b bs ih => exact ih _ (writeByte_wf a b h)

/-- Memory as reset leaves it is canonical: nothing is listed. -/
theorem reset_memory_wf : Memory.wf State.reset.mem := ⟨List.Pairwise.nil, fun _ h => nomatch h⟩

end Sys2Proof.Machine
end

