-- ==== Sys2Proof/Laws/PerInstr.lean ====
section
/-!
SUPPORT. The family SysReg: facts about each instruction as syntax.
-/

namespace Sys2Proof.Laws.SysReg

/-- The word of an instruction carries the five encoding values of rules R60 and R61 in the container of rule R62:
op0 = 3, op1 = 6, CRn = 1, CRm = 1, op2 = 0, with `L` set for the read alone and `Rt` its register number. -/
def Statement (i : Instr) : Prop :=
  SysRegMove.ofWord (encodeWord i) =
    match i with
    | .mrsScr t => ⟨0b1101010100#10, 1#1, 3#2, 6#3, 1#4, 1#4, 0#3, BitVec.ofNat 5 t⟩
    | .msrScr t => ⟨0b1101010100#10, 0#1, 3#2, 6#3, 1#4, 1#4, 0#3, BitVec.ofNat 5 t⟩

theorem fields_of_scrAccess (l : BitVec 1) (rt : BitVec 5) :
    SysRegMove.ofWord (scrAccess l rt).toWord = ⟨0b1101010100#10, l, 3#2, 6#3, 1#4, 1#4, 0#3, rt⟩ := by
  revert l rt
  decide

theorem mrsScr (t : Nat) : Statement (.mrsScr t) := fields_of_scrAccess _ _

theorem msrScr (t : Nat) : Statement (.msrScr t) := fields_of_scrAccess _ _

end Sys2Proof.Laws.SysReg
end

