-- ==== Sys2Proof/Tests/Slice0.lean ====
section
/-!
SUPPORT. Tests against the vectors of 95_test_vectors.md (their rows are named), and for every statement with hypotheses
a state that meets them.
-/

namespace Sys2Proof.Tests

open Sys2Proof Sys2Proof.Machine

/-! ## Well-formedness -/

theorem test_wf_refuses_register_32 : (Instr.mrsScr 32).wf = false ∧ (Instr.msrScr 32).wf = false := by decide

theorem test_wf_accepts_register_31 : (Instr.mrsScr 31).wf = true ∧ (Instr.msrScr 31).wf = true := by decide

/-! ## Decoding: rows E1 to E14, the first word written out field by field -/

theorem test_decode_mrs_from_fields :
    decodeWord (0b1101010100#10 ++ 0b1#1 ++ 0b11#2 ++ 0b110#3 ++ 0b0001#4 ++ 0b0001#4 ++ 0b000#3 ++ 0b00000#5)
      = .ok (.mrsScr 0) := by decide

theorem test_decode_msr_from_fields :
    decodeWord (0b1101010100#10 ++ 0b0#1 ++ 0b11#2 ++ 0b110#3 ++ 0b0001#4 ++ 0b0001#4 ++ 0b000#3 ++ 0b00101#5)
      = .ok (.msrScr 5) := by decide

theorem test_decode_bytes_little_endian : decode [0x1F#8, 0x11#8, 0x1E#8, 0xD5#8, 0xAA#8] = .ok (.msrScr 31, [0xAA#8]) := by
  decide

theorem test_decode_refuses_neighbours :
    decodeWord 0xD53E1200#32 = .error (.notDescribed 0xD53E1200#32) ∧
    decodeWord 0xD53E2100#32 = .error (.notDescribed 0xD53E2100#32) ∧
    decodeWord 0xD5361100#32 = .error (.notDescribed 0xD5361100#32) ∧
    decodeWord 0xD5033FDF#32 = .error (.notDescribed 0xD5033FDF#32) ∧
    decodeWord 0#32 = .error (.notDescribed 0#32) := by decide

theorem test_encode_words : encodeWord (.mrsScr 30) = 0xD53E111E#32 ∧ encodeWord (.msrScr 5) = 0xD51E1105#32 := by decide

theorem test_decode_table_word : decodeTableWord 32 0xD53E1100 = some (.mrsScr 0) := by decide

theorem test_decode_truncated : decode [0x00#8, 0x11#8, 0x3E#8] = .error .truncated := by decide

/-! ## Legal values: rows L1, L2, L5, L8, L11, L13 under `CFG_ALL`, then other configurations -/

theorem test_legal_cfg_all :
    legal cfgAll 0#64 = 0x30#64 ∧ legal cfgAll 0xFFFFFFFFFFFFFFFF#64 = 0x063FFFBF#64 ∧
    legal cfgAll 0xDEADBEEFCAFEF00D#64 = 0x023EF03D#64 ∧ legal cfgAll 0x40#64 = 0x30#64 ∧
    legal cfgAll 0x08000000#64 = 0x30#64 ∧ legal cfgAll 0x00180000#64 = 0x00180030#64 := by decide +kernel

/-- Rows L14, L16, L20, L25. -/
theorem test_legal_other_configurations :
    legal { cfgAll with haveAArch32EL1 := false, haveAArch32EL2 := false } 0#64 = 0x430#64 ∧
    legal { cfgAll with haveEL2 := false } 0xFFFFFFFFFFFFFFFF#64 = 0x063FFEBF#64 ∧
    legal { cfgAll with haveDFE := false } 0xFFFFFFFFFFFFFFFF#64 = 0x0627FFBF#64 ∧
    legal { cfgAll with haveMemTag := false, haveCSV2 := false, haveFaultInjection := false, haveDFE := false, haveSecEL2 := false, havePAuth := false, haveRAS := false, haveLOR := false } 0xFFFFFFFFFFFFFFFF#64 = 0x3FBF#64 := by
  decide +kernel

/-- Rows L27, L28, L29, L30. -/
theorem test_legal_stored :
    legal { cfgAll with resPolicy := .stored } 0#64 = 0#64 ∧
    legal { cfgAll with resPolicy := .stored } 0xDEADBEEFCAFEF00D#64 = 0xDEADBEEFCAFEF00D#64 ∧
    legal { cfgAll with resPolicy := .stored, haveEL2 := false } 0x100#64 = 0x100#64 ∧
    legal { cfgAll with resPolicy := .stored, haveAArch32EL1 := false, haveAArch32EL2 := false } 0#64 = 0x400#64 := by
  decide +kernel

/-! ## Reset: rows Z1 to Z5 for a draw of all ones -/

theorem test_reset_values :
    resetScr cfgAll 0xFFFFFFFFFFFFFFFF#64 = 0x0627FFBF#64 ∧
    resetScr { cfgAll with resetIntoAArch64 := false } 0xFFFFFFFFFFFFFFFF#64 = 0x063FFFBF#64 ∧
    resetScr { cfgAll with resPolicy := .stored } 0xFFFFFFFFFFFFFFFF#64 = 0xFFFFFFFFFFE7FFFF#64 ∧
    resetScr { cfgAll with haveAArch32EL1 := false, haveAArch32EL2 := false } 0#64 = 0x430#64 ∧
    resetScr { cfgAll with haveDFE := false } 0xFFFFFFFFFFFFFFFF#64 = 0x0627FFBF#64 := by decide +kernel

/-! ## Effective values: rows F1 to F6, F8, F9, F11, F12, F14 -/

theorem test_effective_rw :
    eff cfgAll 0x30#64 .rw = false ∧ eff cfgAll 0x430#64 .rw = true ∧ eff cfgAll 0x40030#64 .rw = true ∧
    eff cfgAll 0x40031#64 .rw = false ∧ eff { cfgAll with haveAArch32EL2 := false } 0x31#64 .rw = true ∧
    eff { cfgAll with haveAArch32EL2 := false } 0x30#64 .rw = false := by decide

theorem test_effective_others :
    eff cfgAll 0x40030#64 .st = true ∧ eff cfgAll 0x30#64 .st = false ∧
    eff { cfgAll with haveEL3 := false } 0#64 .fien = true ∧ eff { cfgAll with haveEL3 := false } 0#64 .apk = true ∧
    eff { cfgAll with haveEL3 := false, secureOnly := true } 0#64 .eel2 = true ∧
    eff { cfgAll with haveEL2 := false, resPolicy := .stored } 0x100#64 .hce = false := by decide

/-! ## A small machine: `CFG_ALL` without TLB copies, a level, an SCR_EL3 value and the next events -/

/-- The implementation of the tests. -/
def tCfg : Params := { cfgAll with tlbModel := .none }

/-- A small state. -/
def tState (el : EL) (scr : Word) (evs : List Event) : State :=
  { State.ofReset tCfg 0 with el := el, scr := scr, pc := 0x1000#64, events := evs }

/-- A small state that attempts an operation next. -/
def tAsk (el : EL) (scr : Word) (op : Operation) : State := tState el scr [.attempt op false]

theorem asks_tAsk (el : EL) (scr : Word) (op : Operation) : Asks (tAsk el scr op) op false := ⟨[], rfl⟩

/-- What a test looks at in an outcome: the next state's part, or the fault. -/
def seenIn {α : Type} (f : State → α) : Host.Outcome State Fault Refusal → Option α
  | .next s => some (f s)
  | .fault _ => none
  | .refused _ => none

/-! ## The two accesses: rows A1, A9, A2, A10, A11 (`x[0] = 0x43D`, `x[1] = 0xAAAA...`) -/

theorem test_mrs_reads_stored_value :
    seenIn (fun s => (s.readX 1, s.scr, s.pc)) (exec (.mrsScr 1) (tState .el3 0x531#64 [])) =
      some (0x531#64, 0x531#64, 0x1004#64) := by decide

theorem test_mrs_xzr_discards :
    seenIn (fun s => (s.readX 31, s.readX 30, s.pc)) (exec (.mrsScr 31) (tState .el3 0x531#64 [])) =
      some (0#64, 0#64, 0x1004#64) := by decide

theorem test_msr_stores_legal_value :
    seenIn (fun s => (s.scr, s.pc)) (exec (.msrScr 1) ((tState .el3 0x531#64 []).writeX 1 0xAAAAAAAAAAAAAAAA#64)) =
      some (0x022AAABA#64, 0x1004#64) := by decide +kernel

theorem test_msr_xzr_stores_legal_zero :
    seenIn (fun s => s.scr) (exec (.msrScr 31) (tState .el3 0x063FFFBF#64 [])) = some 0x30#64 := by decide +kernel

/-! ## The step -/

/-- The step runs a placed word from reset. -/
theorem test_step_runs_from_reset :
    (seenIn (fun s => s.pc) (step (State.reset.withFetchWord 32 0xD53E1100))) = some 4#64 ∧
    (seenIn (fun s => s.pc) (step (State.reset.withFetchWord 32 0xD51E1105))) = some 4#64 := ⟨rfl, rfl⟩

/-- Program P3: the read below EL3 faults. -/
theorem test_step_below_el3_faults :
    step ((tState .el1 0x531#64 []).withFetchWord 32 0xD53E1100) = .fault (.undefined .scrAccess) := by rfl

/-- Row I8: the SError stays pending at EL3; row I10: with NMEA it is taken. -/
theorem test_serror_masked_at_el3 :
    seenIn (fun s => s.answer)
      (step { tState .el3 0x38#64 [.offer .serror] with asserted := ⟨false, false, true⟩ }) =
      some (some .staysPending) ∧
    step { tState .el3 0x100038#64 [.offer .serror] with asserted := ⟨false, false, true⟩ } =
      .fault (.takenToEL3 (.interrupt .serror) none) := ⟨by rfl, by rfl⟩

/-! ## The predicates: rows T1 to T47, H1 to H9, S1 to S4, one or two for each field that flips -/

theorem test_predicates_that_act_at_0 :
    tagAccessPrevented (eff cfgAll 0x30#64) .el1 = true ∧ tagAccessPrevented (eff cfgAll 0x30#64) .el3 = false ∧
    trapSCXT (eff cfgAll 0x30#64) .el0 .scxtnumEl0 = true ∧ trapSCXT (eff cfgAll 0x30#64) .el1 .scxtnumEl2 = false ∧
    trapFaultInjection (eff cfgAll 0x30#64) .el2 = true ∧
    trapFaultInjection (eff { cfgAll with haveEL3 := false } 0x30#64) .el1 = false ∧
    trapPAuthInstr (eff cfgAll 0x30#64) .el0 true false = true ∧
    trapPAuthInstr (eff cfgAll 0x30#64) .el1 true true = false ∧
    trapPAuthKey (eff cfgAll 0x30#64) .el1 false = true ∧ trapPAuthKey (eff cfgAll 0x30#64) .el0 false = false ∧
    trapSecureTimer (eff cfgAll 0x30#64) .el1 true false = true ∧
    trapSecureTimer (eff cfgAll 0x40030#64) .el1 true false = false := by decide

theorem test_predicates_that_act_at_1 :
    trapErrorRecord (eff cfgAll 0x8030#64) .el2 true false .erxstatusEl1 = true ∧
    trapErrorRecord (eff cfgAll 0x8030#64) .el1 false false .erxmisc2El1 = false ∧
    trapErrorRecord (eff cfgAll 0x8030#64) .el1 false true .erxmisc2 = true ∧
    trapErrorRecord (eff cfgAll 0x8030#64) .el1 false true .erxmisc4 = false ∧
    trapLOR (eff cfgAll 0x4030#64) .el1 false false = true ∧ trapLOR (eff cfgAll 0x4030#64) .el1 true false = false ∧
    trapWfx (eff cfgAll 0x2030#64 .twe) .el0 true false false true = true ∧
    trapWfx (eff cfgAll 0x2030#64 .twe) .el1 true false true false = false ∧
    trapWfx (eff cfgAll 0x1030#64 .twe) .el0 true false false true = false ∧
    secureFetchForbidden (eff cfgAll 0x230#64) true true = true ∧
    secureFetchForbidden (eff cfgAll 0x230#64) false true = false := by decide

theorem test_hvc_and_smc :
    hvcUndefined (eff cfgAll 0x130#64) .el1 true = true ∧ hvcUndefined (eff cfgAll 0x40130#64) .el1 true = false ∧
    hvcUndefined (eff cfgAll 0x131#64) .el1 false = false ∧ hvcUndefined (eff cfgAll 0x131#64) .el0 false = true ∧
    hvcUndefined (eff cfgAll 0x31#64) .el3 true = true ∧
    smcUndefined (eff cfgAll 0x30#64) .el0 = true ∧ smcUndefined (eff cfgAll 0x30#64) .el1 = false ∧
    smcUndefined (eff cfgAll 0xB0#64) .el3 = true := by decide

/-- An empty region and an access of no byte have no byte in common with anything (log 12). -/
theorem test_meets_needs_a_byte :
    (⟨0x1002, 0, .secure⟩ : Region).meets 0x1000 4 = false ∧ (⟨0x1000, 4, .secure⟩ : Region).meets 0x1002 0 = false ∧
    (⟨0x1003, 1, .secure⟩ : Region).meets 0x1000 4 = true ∧ (⟨0x1004, 1, .secure⟩ : Region).meets 0x1000 4 = false := by
  decide

/-- A copy of EEL2 at 1 serves ST and RW as well: for EEL2 = ST = RW = NS = 0 and a held 1 that is followed. -/
theorem test_copy_of_eel2_serves_st_and_rw :
    seen cfgAll { TlbHeld.none with eel2 := ⟨true, true⟩ } 0x30#64 0x30#64 0x40000 .st = true ∧
    seen cfgAll { TlbHeld.none with eel2 := ⟨true, true⟩ } 0x30#64 0x30#64 0x40000 .rw = true ∧
    seen cfgAll { TlbHeld.none with eel2 := ⟨true, true⟩ } 0x30#64 0x30#64 0 .st = false := by decide

/-- A rival control claims no HVC and no SMC at EL0, and no SMC at EL3 (rules R102, R103). -/
theorem test_rival_claims_no_undefined_call :
    step (tState .el0 0x130#64 [.attempt .hvc true]) = .fault (.undefined .hvc) ∧
    step (tState .el1 0x130#64 [.attempt .hvc true]) = .fault (.undefined .hvc) ∧
    step (tState .el0 0x30#64 [.attempt .smc true]) = .fault (.undefined .smc) ∧
    step (tState .el3 0xB0#64 [.attempt .smc true]) = .fault (.undefined .smc) := ⟨rfl, rfl, rfl, rfl⟩

/-- A rival control does not take a pointer authentication trap that `HCR_EL2.API` does not (rule R91). -/
theorem test_rival_takes_no_pauth_trap :
    step (tState .el1 0x30#64 [.attempt (.pauthInstr true) true]) = .fault (.trapToEL3 (.pauthInstr true)) := rfl

/-- Rows X1 to X6. -/
theorem test_state_of_lower_levels :
    aarch32At cfgAll (eff cfgAll 0x431#64) .el2 = some false ∧ aarch32At cfgAll (eff cfgAll 0x31#64) .el2 = some true ∧
    aarch32At cfgAll (eff cfgAll 0x430#64) .el1 = some false ∧ secureAt (eff cfgAll 0x430#64) .el2 = none ∧
    secureAt (eff cfgAll 0x40030#64) .el2 = some true ∧ aarch32At cfgAll (eff cfgAll 0x40030#64) .el2 = some false ∧
    aarch32At { cfgAll with haveEL2 := false } (eff { cfgAll with haveEL2 := false } 0x431#64) .el1 = some false := by
  decide

/-! ## Witnesses: for every statement with hypotheses, states that meet them, clause by clause -/

theorem witness_DecodeEncodeRoundTrip : (Instr.msrScr 31).wf = true ∧ (Instr.mrsScr 0).wf = true := by decide

theorem witness_DecodeFollowsMatchAndMask :
    0xD53E111F#32 &&& 0xFFFFFFE0#32 = 0xD53E1100#32 ∧ 0xD51E1100#32 &&& 0xFFFFFFE0#32 = 0xD51E1100#32 ∧
    0xD53E1120#32 &&& 0xFFFFFFE0#32 ≠ 0xD53E1100#32 ∧ 0xD53E1120#32 &&& 0xFFFFFFE0#32 ≠ 0xD51E1100#32 := by decide

theorem witness_DecodedWordIsItsEncoding : decodeWord 0xD51E111F#32 = .ok (.msrScr 31) := by decide

theorem witness_LegalBitByBit :
    Field.ata.present cfgAll = true ∧ Field.ns.present cfgAll = true ∧
    Field.ata.present { cfgAll with haveMemTag := false } = false ∧
    (∀ f : Field, f.bit ≠ 63) ∧ (∀ f : Field, f.bit ≠ 5) ∧ (∀ f : Field, f.bit ≠ 4) ∧ (∀ f : Field, f.bit ≠ 6) :=
  ⟨rfl, rfl, rfl, fun f => by cases f <;> decide, fun f => by cases f <;> decide, fun f => by cases f <;> decide,
    fun f => by cases f <;> decide⟩

theorem present_cfgAll (f : Field) : f.present cfgAll = true := by cases f <;> rfl

theorem witness_LegalBitByBit_mask :
    (∀ f : Field, f.present cfgAll = true) ∧ cfgAll.haveAArch32EL1 = true ∧ cfgAll.resPolicy = .hardwired :=
  ⟨present_cfgAll, rfl, rfl⟩

theorem witness_ResetLeavesEachBit :
    Field.nmea.present cfgAll = true ∧ Field.nmea.present { cfgAll with haveDFE := false } = false ∧
    (∀ f : Field, f.bit ≠ 27) := ⟨rfl, rfl, fun f => by cases f <;> decide⟩

theorem witness_ResetLeavesEachBit_mask :
    (∀ f : Field, f.present cfgAll = true) ∧ cfgAll.resPolicy = .hardwired ∧ cfgAll.resetIntoAArch64 = true ∧
    cfgAll.haveAArch32EL1 = true := ⟨present_cfgAll, rfl, rfl, rfl⟩

theorem witness_ResetEventResets : (tState .el1 0x531#64 [.reset]).events = [.reset] := rfl

/-- Between the two reads the environment sets a register. -/
theorem witness_RepeatedReadsAgree :
    ∃ s1 s2 s3, exec (.mrsScr 0) (tState .el3 0x531#64 [.setX 0 7#64]) = .next s1 ∧ QuietRun s1 s2 ∧ s1.events ≠ s2.events ∧
      exec (.mrsScr 30) s2 = .next s3 := by
  refine ⟨_, _, _, rfl, .step rfl ?_ (.refl _), ?_, rfl⟩
  · rintro (⟨rest, h⟩ | ⟨h, -⟩)
    · cases h
    · cases h
  · decide

theorem witness_MrsReadsScr :
    (tState .el3 0x531#64 []).el = .el3 ∧ (tState .el3 0x531#64 []).pc.toNat < 2 ^ 64 - 4 := by decide

theorem witness_MrsToZeroRegisterDiscards :
    (tState .el3 0x531#64 []).el = .el3 ∧ (tState .el3 0x531#64 []).pc.toNat < 2 ^ 64 - 4 := by decide

/-- The hypotheses are those of the read; the first refused pc is the bound. -/
theorem witness_MsrWritesLegalValue :
    (tState .el3 0#64 []).el = .el3 ∧ (tState .el1 0#64 []).el ≠ .el3 ∧ (tState .el3 0#64 []).pc.toNat < 2 ^ 64 - 4 ∧
    ¬({ tState .el3 0#64 [] with pc := 0xFFFFFFFFFFFFFFFC#64 } : State).pc.toNat < 2 ^ 64 - 4 := by decide

theorem witness_MsrFromZeroRegisterWritesZero :
    (tState .el3 0x63FFFBF#64 []).el = .el3 ∧ (tState .el3 0x63FFFBF#64 []).pc.toNat < 2 ^ 64 - 4 := by decide

theorem witness_AccessBelowEL3IsUndefined : (tState .el2 0x531#64 []).el ≠ .el3 := by decide

/-- A state with EL1 on an implementation without EL3. -/
def tNoEL3 : State := { State.ofReset { tCfg with haveEL3 := false, resetLevel := .el1 } 0 with pc := 0x1000#64 }

theorem witness_AccessWithoutEL3IsUndefined : MachineInv tNoEL3 ∧ tNoEL3.params.haveEL3 = false :=
  ⟨⟨⟨List.Pairwise.nil, (fun _ h => nomatch h)⟩, rfl, by decide +kernel, (fun _ h => nomatch h), rfl, by decide +kernel⟩, rfl⟩

theorem witness_AccessAtTopIsRefused :
    ({ tState .el3 0x531#64 [] with pc := 0xFFFFFFFFFFFFFFFC#64 } : State).el = .el3 ∧
    2 ^ 64 - 4 ≤ ({ tState .el3 0x531#64 [] with pc := 0xFFFFFFFFFFFFFFFC#64 } : State).pc.toNat := by decide

theorem witness_CompletedAccessAdvancesPc :
    ∃ s', exec (.mrsScr 0) { tState .el3 0x531#64 [] with pc := 0xFFFFFFFFFFFFFFFB#64 } = .next s' := ⟨_, rfl⟩

theorem witness_MrsFrame : ∃ s', exec (.mrsScr 31) (tState .el3 0x531#64 []) = .next s' := ⟨_, rfl⟩

theorem witness_MsrFrame : ∃ s', exec (.msrScr 30) (tState .el3 0x531#64 []) = .next s' := ⟨_, rfl⟩

theorem witness_ReadAfterWrite :
    (tState .el3 0x531#64 []).el = .el3 ∧ (tState .el3 0x531#64 []).pc.toNat + 4 < 2 ^ 64 - 4 := by decide

/-- A state that meets the invariant, at EL3. -/
def tInv : State := { State.ofReset tCfg 0x531#64 with pc := 0x1000#64 }

theorem tInv_meets : MachineInv tInv :=
  ⟨⟨List.Pairwise.nil, (fun _ h => nomatch h)⟩, rfl, by decide +kernel, (fun _ h => nomatch h), rfl, by decide +kernel⟩

theorem witness_WriteBackPreservesScr : MachineInv tInv ∧ tInv.el = .el3 ∧ tInv.pc.toNat + 4 < 2 ^ 64 - 4 :=
  ⟨tInv_meets, rfl, by decide⟩

theorem witness_SecureEL2OverridesRw :
    (∃ s', exec (.msrScr 2) ((tState .el3 0x531#64 []).writeX 2 0x40000#64) = .next s') ∧ tCfg.haveSecEL2 = true ∧
    rwIsRAO tCfg = false ∧ stored 0x40000#64 .eel2 = true ∧ stored 0x40000#64 .ns = false := ⟨⟨_, rfl⟩, by decide⟩

theorem witness_AArch32ScrMapping :
    (∃ s', exec (.msrScr 2) (State.ofReset { tCfg with mapsToAArch32SCR := true } 0) = .next s') ∧
    (∃ s', exec (.msrScr 2) (State.ofReset tCfg 0) = .next s') := ⟨⟨_, rfl⟩, ⟨_, rfl⟩⟩

/-- A state with the read of SCR_EL3 placed, and the same with a mark on it. -/
def tPlaced (marks : List Region) (scr : Word) : State :=
  { (tState .el3 scr []).withFetchWord 32 0xD53E1100 with marks := marks }

theorem witness_StepRunsTheDecodedInstruction :
    (tPlaced [] 0x30#64).events = [] ∧
    readBytes (tPlaced [] 0x30#64).mem 0x1000 4 = some [0x00#8, 0x11#8, 0x3E#8, 0xD5#8] ∧
    decode [0x00#8, 0x11#8, 0x3E#8, 0xD5#8] = .ok (.mrsScr 0, []) ∧ (tPlaced [] 0x30#64).fetchMarked = false ∧
    (tPlaced [⟨0x1003, 1, .stage1NonSecure⟩] 0x30#64).fetchMarked = true ∧
    judge ((tPlaced [⟨0x1003, 1, .stage1NonSecure⟩] 0x30#64).attempt false)
      (tPlaced [⟨0x1003, 1, .stage1NonSecure⟩] 0x30#64).controls (.fetch 0x1000#64) = .next .notAffected :=
  ⟨rfl, by decide, by decide, by decide, by decide, by rfl⟩

theorem witness_PlacedWordRunsNext :
    (Instr.mrsScr 31).wf = true ∧ ({ tInv with pc := 0xFFFFFFFFFFFFFFFC#64 } : State).pc.toNat + 4 ≤ 2 ^ 64 := by decide

theorem witness_UndescribedWordStopsTheStep :
    tInv.pc.toNat + 4 ≤ 2 ^ 64 ∧ 0xD5033FDF#32 &&& 0xFFFFFFE0#32 ≠ 0xD53E1100#32 ∧
    0xD5033FDF#32 &&& 0xFFFFFFE0#32 ≠ 0xD51E1100#32 := by decide

theorem witness_ResetMeetsInvariant : cfgAll.wf = true ∧ tNoEL3.params.wf = true := by decide

theorem witness_StepKeepsInvariant :
    MachineInv (tInv.withFetchWord 32 0xD51E1100) ∧ ∃ s', step (tInv.withFetchWord 32 0xD51E1100) = .next s' :=
  ⟨⟨by decide +kernel, rfl, by decide +kernel, (fun _ h => nomatch h), rfl, by decide +kernel⟩, ⟨_, rfl⟩⟩

theorem witness_ScrChangesOnlyByWriteOrReset :
    ∃ s', step (tInv.withFetchWord 32 0xD51E111F) = .next s' ∧ s'.scr ≠ (tInv.withFetchWord 32 0xD51E111F).scr :=
  ⟨_, rfl, by decide +kernel⟩

theorem witness_NoInstructionCompletesBelowEL3 :
    (tState .el0 0x531#64 []).events = [] ∧ (tState .el0 0x531#64 []).el ≠ .el3 := by decide

theorem witness_LevelChangesOnlyFromOutside :
    MachineInv { tInv with events := [.setEL .el1] } ∧
    ∃ s', step { tInv with events := [.setEL .el1] } = .next s' ∧ s'.el ≠ tInv.el :=
  ⟨⟨tInv_meets.mem, tInv_meets.params, tInv_meets.scr, tInv_meets.window, tInv_meets.el, tInv_meets.held⟩, _, rfl,
    by decide⟩

theorem witness_PcMovesOnlyByAccessOrReset :
    ∃ s', step (tPlaced [] 0x30#64) = .next s' ∧ s'.pc ≠ (tPlaced [] 0x30#64).pc := ⟨_, rfl, by decide⟩

theorem witness_CtxSyncClosesTheWindow :
    ({ tState .el3 0x531#64 [.ctxSync] with window := [0x530#64] } : State).events = [.ctxSync] ∧
    tCfg.tlbModel = .none ∧ cfgAll.tlbModel = .draw ∧ Field.ns.cacheable = false := ⟨rfl, rfl, rfl, rfl⟩

theorem witness_TlbInvalidateKeepsVisibleValues :
    ({ tState .el3 0x531#64 [.tlbInvalidate] with window := [0x40530#64] } : State).events = [.tlbInvalidate] := rfl

theorem witness_EffectiveValuesWithoutEL3 :
    tNoEL3.params.haveEL3 = false ∧ tNoEL3.params.havePAuth = true ∧ cfgAll.haveEL3 = true ∧
    cfgAll.haveFaultInjection = true ∧ cfgAll.havePAuth = true ∧ cfgAll.haveSecEL2 = true ∧
    ({ cfgAll with haveSecEL2 := false } : Params).haveSecEL2 = false := by decide

/-- On an implementation that follows TLB copies a field outside them is settled too. -/
theorem witness_Follows :
    (State.ofReset cfgAll 0).settledFor .enscxt = true ∧ (State.ofReset cfgAll 0).settledFor .sif = false ∧
    (tState .el3 0x531#64 []).settledFor .sif = true := by decide

/-- The same attempts with a rival. -/
theorem witness_rival : Asks (tState .el1 0x30#64 [.attempt .smc true]) .smc true := ⟨[], rfl⟩

theorem witness_AtaPreventsTagAccess :
    Asks (tAsk .el2 0x30#64 (.tag .loadTag)) (.tag .loadTag) false ∧
    (tAsk .el2 0x30#64 (.tag .loadTag)).controls .own .ata = false ∧
    Asks (tAsk .el2 0x4000030#64 (.tag .loadTag)) (.tag .loadTag) false ∧
    (tAsk .el2 0x4000030#64 (.tag .loadTag)).controls .own .ata = true ∧
    tCfg.haveEL3 = true ∧ tCfg.haveMemTag = true :=
  ⟨asks_tAsk _ _ _, by decide, asks_tAsk _ _ _, by decide, ⟨rfl, rfl⟩⟩

theorem witness_EnscxtTrapsAndZeroes :
    Asks (tAsk .el1 0x30#64 (.scxtAccess .scxtnumEl1)) (.scxtAccess .scxtnumEl1) false ∧
    Asks (tAsk .el0 0x30#64 (.scxtAccess .scxtnumEl1)) (.scxtAccess .scxtnumEl1) false ∧
    Asks (tAsk .el1 0x2000030#64 (.scxtUse .scxtnumEl1)) (.scxtUse .scxtnumEl1) false ∧
    (tAsk .el1 0x30#64 (.scxtAccess .scxtnumEl1)).controls .own .enscxt = false ∧
    (tAsk .el1 0x2000030#64 (.scxtUse .scxtnumEl1)).controls .own .enscxt = true ∧
    tCfg.haveCSV2 = true :=
  ⟨asks_tAsk _ _ _, asks_tAsk _ _ _, asks_tAsk _ _ _, by decide, by decide, rfl⟩

theorem witness_FienTrapsFaultInjection :
    Asks (tAsk .el2 0x30#64 (.faultInjection .erxpfgfEl1)) (.faultInjection .erxpfgfEl1) false ∧
    (tAsk .el2 0x30#64 (.faultInjection .erxpfgfEl1)).controls .own .fien = false ∧
    (tAsk .el2 0x30#64 (.faultInjection .erxpfgfEl1)).atEL1orEL2 ∧
    (tAsk .el2 0x200030#64 (.faultInjection .erxpfgfEl1)).controls .own .fien = true ∧
    tCfg.haveFaultInjection = true :=
  ⟨asks_tAsk _ _ _, by decide, .inr rfl, by decide, rfl⟩

/-- A state that offers an asserted interrupt. -/
def tOffer (el : EL) (scr : Word) (k : Interrupt) : State :=
  { tState el scr [.offer k] with asserted := ⟨true, true, true⟩ }

theorem offers_tOffer (el : EL) (scr : Word) (k : Interrupt) : Offers (tOffer el scr k) k :=
  ⟨rfl, by cases k <;> rfl, [], rfl⟩

/-- With an older value of EA = 0 visible, the mask's evaluation may see it, and the routing SCR_EL3. -/
theorem witness_SerrorRoutingAndMasking_open (w : View) (hn : w .own .ea = true) (ho : w .masking .ea = false) :
    route w .el3 true (.interrupt .serror) = .notStated := by
  simp [route, hn, belowEL3, serrorMaskedAtEL3, ho]

theorem witness_SerrorRoutingAndMasking :
    Offers (tOffer .el3 0x38#64 .serror) .serror ∧
    (tOffer .el3 0x38#64 .serror).controls .own .ea = true ∧
    (tOffer .el3 0x38#64 .serror).controls .masking .ea = true ∧
    (tOffer .el3 0x38#64 .serror).controls .masking .nmea = false ∧
    (tOffer .el3 0x38#64 .serror).a = true ∧
    (tOffer .el3 0x100038#64 .serror).controls .masking .nmea = true ∧
    (tOffer .el1 0x30#64 .serror).controls .own .ea = false :=
  ⟨offers_tOffer _ _ _, by decide, by decide, by decide, rfl, by decide, by decide⟩

theorem witness_ExternalAbortRoutingAndVector :
    Aborts (tState .el1 0x80038#64 [.externalAbort true]) true ∧
    (tState .el1 0x80038#64 [.externalAbort true]).controls .own .ea = true ∧
    (tState .el1 0x80038#64 [.externalAbort true]).controls .vector .ease = true ∧
    Aborts (tState .el3 0x30#64 [.externalAbort false]) false ∧
    (tState .el3 0x30#64 [.externalAbort false]).controls .own .ea = false :=
  ⟨⟨rfl, [], rfl⟩, by decide, by decide, ⟨rfl, [], rfl⟩, by decide⟩

theorem witness_FiqAndIrqRouting :
    Offers (tOffer .el1 0x34#64 .fiq) .fiq ∧
    (tOffer .el1 0x34#64 .fiq).controls .own .fiq = true ∧
    Offers (tOffer .el3 0x34#64 .irq) .irq ∧
    (tOffer .el3 0x34#64 .irq).controls .own .irq = false :=
  ⟨offers_tOffer _ _ _, by decide, offers_tOffer _ _ _, by decide⟩

theorem witness_SecureEL2DisabledEffects :
    Asks (tAsk .el3 0x30#64 .secEL2Register) .secEL2Register false ∧
    (tAsk .el3 0x30#64 .secEL2Register).controls .own .eel2 = false ∧
    Asks (tAsk .el3 0x40030#64 .secEL2Timer) .secEL2Timer false ∧
    (tAsk .el3 0x40030#64 .secEL2Timer).controls .own .eel2 = true :=
  ⟨asks_tAsk _ _ _, by decide, asks_tAsk _ _ _, by decide⟩

theorem witness_OperationsWithoutEL3OrFeature :
    Asks { tNoEL3 with events := [.attempt .pauthKey false] } .pauthKey false ∧
    Operation.pauthKey.available tNoEL3.params = true ∧ tNoEL3.params.haveEL3 = false ∧
    Operation.pauthKey.available { cfgAll with havePAuth := false } = false :=
  ⟨⟨[], rfl⟩, rfl, rfl, rfl⟩

theorem witness_AArch32SecureOpsTrap :
    Asks (tAsk .el1 0x30#64 (.aarch32SecureOp .ec3)) (.aarch32SecureOp .ec3) false ∧
    (tAsk .el1 0x30#64 (.aarch32SecureOp .ec3)).usesAArch32 = true ∧
    (tAsk .el1 0x30#64 (.aarch32SecureOp .ec3)).controls .security .ns = false ∧
    (tAsk .el1 0x30#64 (.aarch32SecureOp .ec3)).controls .own .eel2 = false ∧
    (tAsk .el1 0x40030#64 (.aarch32SecureOp .ec0)).controls .own .eel2 = true ∧
    ({ tAsk .el1 0x40030#64 (.aarch32SecureOp .ec0) with
        inputs := { Inputs.initial with aarch32 := true } } : State).usesAArch32 = true :=
  ⟨asks_tAsk _ _ _, by decide, by decide, by decide, by decide, by decide⟩

theorem witness_PointerAuthTraps :
    Asks (tAsk .el0 0x30#64 (.pauthInstr true)) (.pauthInstr true) false ∧
    (tAsk .el0 0x30#64 (.pauthInstr true)).controls .own .api = false ∧
    (tAsk .el0 0x30#64 (.pauthInstr true)).inputs.hcrEl2Api = false ∧
    Asks (tAsk .el2 0x30#64 .pauthKey) .pauthKey false ∧
    (tAsk .el2 0x30#64 .pauthKey).controls .own .apk = false ∧
    (tAsk .el2 0x30#64 .pauthKey).atEL1orEL2 ∧
    (tAsk .el2 0x10030#64 .pauthKey).controls .own .apk = true ∧
    Asks (tState .el1 0x30#64 [.attempt .pauthKey true]) .pauthKey true ∧
    tCfg.havePAuth = true :=
  ⟨asks_tAsk _ _ _, by decide, rfl, asks_tAsk _ _ _, by decide, .inr rfl, by decide, ⟨[], rfl⟩, rfl⟩

theorem witness_TerrTrapsErrorRecords :
    Asks (tAsk .el1 0x8030#64 (.errorRecord .erxmisc7)) (.errorRecord .erxmisc7) false ∧
    (tAsk .el1 0x8030#64 (.errorRecord .erxmisc7)).controls .own .terr = true ∧
    (tAsk .el1 0x8030#64 (.errorRecord .erxmisc7)).usesAArch32 = true ∧
    (tAsk .el2 0x8431#64 (.errorRecord .erxmisc3El1)).usesAArch32 = false ∧
    tCfg.haveRAS = true :=
  ⟨asks_tAsk _ _ _, by decide, by decide, by decide, rfl⟩

theorem witness_TlorTrapsLorRegisters :
    Asks (tAsk .el1 0x4030#64 (.lor .lorcEl1 false)) (.lor .lorcEl1 false) false ∧
    (tAsk .el1 0x4030#64 (.lor .lorcEl1 false)).controls .own .tlor = true ∧
    (tAsk .el1 0x4030#64 (.lor .lorcEl1 false)).inputs.hcrEl2Tlor = false ∧
    tCfg.haveLOR = true :=
  ⟨asks_tAsk _ _ _, by decide, rfl, rfl⟩

theorem witness_WfxTrapsOrCompletes_unarmed :
    Asks (tAsk .el0 0x30#64 (.wfe true true)) (.wfe true true) false ∧
    (tAsk .el0 0x30#64 (.wfe true true)).controls .own .twe = false ∧
    Asks (tAsk .el0 0x30#64 (.wfi true true)) (.wfi true true) false ∧
    (tAsk .el0 0x30#64 (.wfi true true)).controls .own .twi = false :=
  ⟨asks_tAsk _ _ _, by decide, asks_tAsk _ _ _, by decide⟩

theorem witness_WfxTrapsOrCompletes_armed :
    Asks (tAsk .el0 0x2030#64 (.wfe true true)) (.wfe true true) false ∧
    (tAsk .el0 0x2030#64 (.wfe true true)).controls .own .twe = true ∧
    (tAsk .el0 0x2030#64 (.wfe true true)).inputs.wfe.any = false ∧
    Asks (tAsk .el2 0x1030#64 (.wfi true true)) (.wfi true true) false ∧
    (tAsk .el2 0x1030#64 (.wfi true true)).controls .own .twi = true ∧
    (tAsk .el2 0x1030#64 (.wfi true true)).inputs.wfi.any = false :=
  ⟨asks_tAsk _ _ _, by decide, rfl, asks_tAsk _ _ _, by decide, rfl⟩

theorem witness_StTrapsSecureTimer :
    Asks (tAsk .el1 0x430#64 (.secureTimer .cntpsCtlEl1)) (.secureTimer .cntpsCtlEl1) false ∧
    (tAsk .el1 0x430#64 (.secureTimer .cntpsCtlEl1)).controls .own .st = false ∧
    (tAsk .el1 0x430#64 (.secureTimer .cntpsCtlEl1)).controls .security .ns = false ∧
    (tAsk .el1 0x430#64 (.secureTimer .cntpsCtlEl1)).usesAArch32 = false :=
  ⟨asks_tAsk _ _ _, by decide, by decide, by decide⟩

theorem witness_ExecutionStateOfLowerLevels :
    cfgAll.haveEL3 = true ∧ eff cfgAll 0x31#64 .rw = false ∧ eff cfgAll 0x431#64 .rw = true ∧ cfgAll.haveEL2 = true ∧
    eff { cfgAll with haveEL2 := false } 0x431#64 .rw = true ∧
    eff cfgAll 0x430#64 .rw = true ∧ stored 0x430#64 .ns = false ∧ eff cfgAll 0x430#64 .eel2 = false := by decide

theorem witness_SecurityStateOfLowerLevels :
    cfgAll.haveEL3 = true ∧ stored 0x31#64 .ns = true ∧ stored 0x40030#64 .ns = false ∧
    eff cfgAll 0x40030#64 .eel2 = true ∧ stored 0x30#64 .ns = false ∧ eff cfgAll 0x30#64 .eel2 = false := by decide

/-- The last of the four placed bytes alone is marked. -/
theorem touches_last (scr : Word) (k : Mark) : (tPlaced [⟨0x1003, 1, k⟩] scr).touches k 0x1000#64 4 :=
  ⟨0x1003, by decide, by decide, _, List.mem_singleton.mpr rfl, rfl, Nat.le_refl 0x1003, Nat.lt_succ_self 0x1003⟩

/-- Vector T45's field values at EL1, a Secure level at EL3, and a denied level, on the machine's own fetch. -/
theorem witness_SifAndNsOnAFetch :
    ((tPlaced [⟨0x1003, 1, .stage1NonSecure⟩] 0x230#64).events = [] ∧
      (tPlaced [⟨0x1003, 1, .stage1NonSecure⟩] 0x230#64).fetchMarked = true ∧
      (tPlaced [⟨0x1003, 1, .stage1NonSecure⟩] 0x230#64).controls .own .sif = true ∧
      secureAt ((tPlaced [⟨0x1003, 1, .stage1NonSecure⟩] 0x230#64).controls .security) .el3 = some true) ∧
    ((tPlaced [⟨0x1003, 1, .stage1NonSecure⟩] 0x231#64).controls .own .sif = true ∧
      secureAt ((tPlaced [⟨0x1003, 1, .stage1NonSecure⟩] 0x231#64).controls .security) .el1 = some false) ∧
    ((tPlaced [⟨0x1003, 1, .secure⟩] 0x231#64).controls .security .ns = true ∧
      (tPlaced [⟨0x1003, 1, .secure⟩] 0x231#64).touches .secure 0x1000#64 4) ∧
    secureAt ((tPlaced [⟨0x1003, 1, .stage1NonSecure⟩] 0x230#64).controls .security) .el2 = none ∧
    Asks (tAsk .el1 0x230#64 (.fetch 0x1000#64)) (.fetch 0x1000#64) false :=
  ⟨⟨rfl, by decide, by decide, by decide⟩, ⟨by decide, by decide⟩, ⟨by decide, touches_last _ _⟩, by decide,
    asks_tAsk _ _ _⟩

/-- A denied access of eight bytes whose last byte alone is Secure; one past it touches nothing. -/
theorem witness_NsDeniesSecureMemory :
    Asks { tAsk .el1 0x31#64 (.access 0x2000#64 8) with marks := [⟨0x2007, 1, .secure⟩] } (.access 0x2000#64 8) false ∧
    (tAsk .el1 0x31#64 (.access 0x2000#64 8)).controls .security .ns = true ∧
    ({ tAsk .el1 0x31#64 (.access 0x2000#64 8) with marks := [⟨0x2007, 1, .secure⟩] } : State).touches .secure
      0x2000#64 8 ∧
    ¬({ tAsk .el1 0x31#64 (.access 0x2000#64 8) with marks := [⟨0x2008, 1, .secure⟩] } : State).touches .secure
      0x2000#64 8 :=
  ⟨⟨[], rfl⟩, by decide, marked_iff.mp (by decide), fun h => absurd (marked_iff.mpr h) (by decide)⟩

theorem witness_HceDisablesHvc :
    Asks (tAsk .el1 0x130#64 .hvc) .hvc false ∧ (tAsk .el1 0x130#64 .hvc).controls .security .ns = false ∧
    (tAsk .el1 0x130#64 .hvc).controls .own .eel2 = false ∧ (tAsk .el2 0x131#64 .hvc).controls .own .hce = true ∧
    (tAsk .el2 0x30#64 .hvc).controls .own .hce = false :=
  ⟨asks_tAsk _ _ _, by decide, by decide, by decide, by decide⟩

theorem witness_SmdDisablesSmc :
    Asks (tAsk .el3 0xB0#64 .smc) .smc false ∧ (tAsk .el3 0xB0#64 .smc).controls .own .smd = true ∧
    (tAsk .el1 0xB0#64 .smc).controls .own .smd = true ∧ (tAsk .el1 0xB0#64 .smc).atEL1orEL2 ∧
    (tAsk .el1 0x30#64 .smc).controls .own .smd = false :=
  ⟨asks_tAsk _ _ _, by decide, by decide, .inl rfl, by decide⟩

end Sys2Proof.Tests
end

section
/-!
The layout of SCR_EL3 (rule R11): the bits that `fieldAt` gives a field are those of `FIELD_MASK`, and the three masks
partition the register.
-/

namespace Sys2Proof

/-- The columns of rule R10's figure that hold a name are the bits of `FIELD_MASK`: one evaluation per bit. -/
theorem fieldMask_getLsbD : ∀ n, n < 64 → (0x00000000063FFF8F#64).getLsbD n = (fieldAt n).isSome := by
  decide

/-- Settles O5: positions and masks are the model's literals, evaluated; that the figure has each field at its position
is `fieldAt_bit`, and that it has a field nowhere else is `fieldMask_getLsbD`. -/
theorem fieldMasksPartitionTheRegister : Obligations.FieldMasksPartitionTheRegister := by
  unfold Obligations.FieldMasksPartitionTheRegister
  refine ⟨rfl, fieldMask_getLsbD, fieldAt_bit, ?cover, ?fieldRes1, ?fieldRes0, ?res1Res0⟩
  case cover => decide
  case fieldRes1 => decide
  case fieldRes0 => decide
  case res1Res0 => decide

end Sys2Proof
end

section
/-!
The two accesses of SCR_EL3 by what `exec` answers: UNDEFINED below EL3, and at EL3 the one next state each of them has
(rules R70, R71, R72, R74).
-/

namespace Sys2Proof.Machine

variable {s : State}

/-! ## What an access answers -/

/-- The level is tested before anything else, and for both accesses alike (rule R74). -/
theorem exec_of_not_el3 (i : Instr) (h : s.el ≠ .el3) : exec i s = .fault (.undefined .scrAccess) := by
  have hl : ¬ s.atEL3 = true := fun ha => h (s.atEL3_iff.mp ha)
  cases i with
  | mrsScr t => exact if_neg hl
  | msrScr t => exact if_neg hl

theorem exec_mrsScr_of_el3 (t : Nat) (hl : s.el = .el3) (hp : s.pc.toNat < 2 ^ 64 - 4) :
    exec (.mrsScr t) s = .next { s.writeX t s.scr with pc := s.pc + 4 } := calc
  exec (.mrsScr t) s = (s.writeX t s.scr).completed := if_pos (s.atEL3_iff.mpr hl)
  _ = .next { s.writeX t s.scr with pc := (s.writeX t s.scr).pc + 4 } :=
    completed_of_lt ((s.writeX_pc t s.scr).symm ▸ hp)
  _ = .next { s.writeX t s.scr with pc := s.pc + 4 } := by rw [s.writeX_pc]

theorem exec_msrScr_of_el3 (t : Nat) (hl : s.el = .el3) (hp : s.pc.toNat < 2 ^ 64 - 4) :
    exec (.msrScr t) s = .next { s.writeScr (s.readX t) with pc := s.pc + 4 } := calc
  exec (.msrScr t) s = (s.writeScr (s.readX t)).completed := if_pos (s.atEL3_iff.mpr hl)
  _ = .next { s.writeScr (s.readX t) with pc := s.pc + 4 } := completed_of_lt hp

/-! ## What they leave unchanged -/

/-- The frame of a register write: of the whole state only the register file can differ. -/
theorem writeX_frame (s : State) (t : Nat) (v : Word) : s.writeX t v = { s with x := (s.writeX t v).x } := by
  unfold State.writeX
  split <;> rfl

/-- The pc is no part of what a register read sees. -/
theorem readX_with_pc (s : State) (pc : Word) (u : Nat) : ({ s with pc := pc } : State).readX u = s.readX u :=
  State.readX_congr rfl u

/-! ## The statements -/

/-- Settles O11: the next state is that of the register write `X[t] := SCR_EL3` with the pc moved on, so its registers
and its frame are those of `writeX`. -/
theorem mrsReadsScr : Obligations.MrsReadsScr := by
  unfold Obligations.MrsReadsScr
  intro s t ht
  refine ⟨exec_of_not_el3 _, fun hl hp => ⟨_, exec_mrsScr_of_el3 t hl hp, ?target, ?others, ?frame⟩⟩
  case target => rw [readX_with_pc, s.readX_writeX_same ht]
  case others =>
    intro u hu
    rw [readX_with_pc, s.readX_writeX_other hu]
  case frame => exact congrArg (fun r : State => { r with pc := s.pc + 4 }) (writeX_frame s t s.scr)

/-- Settles O13: the next state is that of `writeScr` with the pc moved on; the fields `writeScr` assigns are SCR_EL3 and
the hidden state the statement sets apart. -/
theorem msrWritesLegalValue : Obligations.MsrWritesLegalValue := by
  unfold Obligations.MsrWritesLegalValue
  intro s t _
  refine ⟨exec_of_not_el3 _, fun hl hp => ⟨_, exec_msrScr_of_el3 t hl hp, ?value, ?frame⟩⟩
  case value => exact s.writeScr_scr (s.readX t)
  case frame => rfl

end Sys2Proof.Machine
end

section
/-!
How an attempted operation's outcome follows from its predicate: shared by the statements on the fields (rules R80 to
R108).
-/

namespace Sys2Proof.Machine

variable {s : State} {rival : Bool}

/-- Every control is tied to SCR_EL3 where it is settled, whichever fields are asked about (rules R52, R56). -/
theorem State.follows (s : State) (fs : List Field) : s.Follows fs := fun _ _ hs r => controls_of_settledFor hs r

/-- With EL3 every operation the implementation has is judged by its rule (D3). -/
theorem step_of_asks_with_el3 {op : Operation} (h : Asks s op rival) (ha : op.available s.params = true)
    (h3 : s.params.haveEL3 = true) :
    step s = { s with events := s.events.tail }.answered (judgeOp (s.attempt rival) s.controls op) :=
  step_of_asks h ha (by rw [h3, Bool.true_or])

/-- A predicate's two outcomes, told by the condition it is equivalent to. -/
theorem outcomes_of_iff {b : Bool} {P A B : Prop} (hp : b = true ↔ P) (h : (b = true → A) ∧ (¬b = true → B)) :
    (P → A) ∧ (¬P → B) :=
  ⟨fun p => h.1 (hp.mpr p), fun n => h.2 fun hb => n (hp.mp hb)⟩

/-- At EL1 the Security state an attempt sees is NS (rule R107), in the form the predicates on Secure EL1 use. -/
theorem el1_and_secure_iff {P : Prop} :
    s.el = .el1 ∧ (s.attempt rival).secure s.controls = true ∧ P ↔
      s.el = .el1 ∧ s.controls .security .ns = false ∧ P :=
  and_congr_right fun hl => by
    rw [secure_at_el1 (c := s.attempt rival) hl, Bool.not_eq_true']

/-- Without EL3 the Effective value of FIEN is 1, whichever value is visible (rule R24). -/
theorem controls_fien_without_el3 (h3 : s.params.haveEL3 = false) (r : Evaluation) : s.controls r .fien = true := by
  rw [State.controls, seen_of_not_served rfl]
  simp [eff, effFIEN, h3]

theorem scxtValue_of_disabled {e : Controls} (h : e .enscxt = false) (v : Word) : scxtValue e v = 0 := by
  simp [scxtValue, h]

theorem scxtValue_of_enabled {e : Controls} (h : e .enscxt = true) (v : Word) : scxtValue e v = v := by
  simp [scxtValue, h]

/-- FIQ and IRQ are routed alike, each by its own bit, and neither looks at `PSTATE.A` (rules R105, R106). -/
theorem route_fiq_irq {k : Interrupt} {f : Field} (h : (k = .fiq ∧ f = .fiq) ∨ (k = .irq ∧ f = .irq)) (w : View)
    (el : EL) (a : Bool) :
    route w el a (.interrupt k) =
      if w .own f then .toEL3 else if belowEL3 el then .notToEL3 else .pending := by
  obtain ⟨rfl, rfl⟩ | ⟨rfl, rfl⟩ := h <;> rfl

/-- The registers of rule R93 for an Execution state, the first list for AArch64 and the second for AArch32. -/
def errorRecordList (ras84 aarch32 : Bool) : List ErrorReg :=
  if aarch32 then
    [.erridr, .errselr, .erxaddr, .erxaddr2, .erxctlr, .erxctlr2, .erxfr, .erxfr2, .erxmisc0, .erxmisc1, .erxmisc2,
      .erxmisc3, .erxstatus] ++
    (if ras84 then [.erxmisc4, .erxmisc5, .erxmisc6, .erxmisc7] else [])
  else
    [.erridrEl1, .errselrEl1, .erxaddrEl1, .erxctlrEl1, .erxfrEl1, .erxmisc0El1, .erxmisc1El1, .erxstatusEl1] ++
    (if ras84 then [.erxmisc2El1, .erxmisc3El1] else [])

/-- The model's predicate on registers is membership in the rule's lists: one evaluation per register, Execution state
and extension (rule R93). -/
theorem errorRecordReg_iff (ras84 aarch32 : Bool) (r : ErrorReg) :
    errorRecordReg ras84 aarch32 r = true ↔ r ∈ errorRecordList ras84 aarch32 := by
  cases r <;> cases aarch32 <;> cases ras84 <;> decide

end Sys2Proof.Machine
end

section
/-!
What the fields make the PE do: the statements on ATA, EnSCXT, FIEN, FIQ and IRQ, API and APK, TERR, TWE and TWI, ST and
HCE.
-/

namespace Sys2Proof.Machine

/-- Settles O41: the answer is the one of the predicate `tagAccessPrevented`. -/
theorem ataPreventsTagAccess : Obligations.AtaPreventsTagAccess := by
  unfold Obligations.AtaPreventsTagAccess
  intro s u rival h h3 hm
  have hs := step_of_asks_with_el3 h hm h3
  refine ⟨s.follows _, fun hl he => ?prevented, fun hn => ?notAffected⟩
  case prevented =>
    have hp : tagAccessPrevented (s.controls .own) s.el = true := tagAccessPrevented_iff.mpr ⟨hl, he⟩
    exact answers_of_step hs (congrArg Host.Outcome.next (if_pos hp))
  case notAffected =>
    have hp : ¬tagAccessPrevented (s.controls .own) s.el = true := fun ht => by
      obtain ⟨hl, he⟩ := tagAccessPrevented_iff.mp ht
      exact hn.elim hl (Bool.eq_false_iff.mp he)
    exact answers_of_step hs (congrArg Host.Outcome.next (if_neg hp))

/-- Settles O42: an access is contested by `trapSCXT`, and a use answers `scxtValue`. -/
theorem enscxtTrapsAndZeroes : Obligations.EnscxtTrapsAndZeroes := by
  unfold Obligations.EnscxtTrapsAndZeroes
  intro s r rival h3 hc
  have accessed := fun h : Asks s (.scxtAccess r) rival => step_of_contested (step_of_asks_with_el3 h hc h3)
  have used : Asks s (.scxtUse r) rival →
      Answers s (.registerValue (scxtValue (s.controls .own) (s.inputs.scxtnum r))) :=
    fun h => answers_of_step (step_of_asks_with_el3 h hc h3) rfl
  refine ⟨s.follows _, fun h he => ?disabled, fun h he => ?enabled, fun h he => ?zero, fun h he => ?value⟩
  case disabled => exact outcomes_of_iff (trapSCXT_iff.trans (and_iff_right he)) (accessed h)
  case enabled => exact (accessed h).2 fun ht => Bool.eq_false_iff.mp (trapSCXT_iff.mp ht).1 he
  case zero => simpa only [scxtValue_of_disabled he] using used h
  case value => simpa only [scxtValue_of_enabled he] using used h

/-- Settles O43: contested by `trapFaultInjection`; without EL3 FIEN is seen at 1, so it does not hold. -/
theorem fienTrapsFaultInjection : Obligations.FienTrapsFaultInjection := by
  unfold Obligations.FienTrapsFaultInjection
  intro s r rival h hf
  obtain ⟨traps, passes⟩ :=
    outcomes_of_iff trapFaultInjection_iff (step_of_contested (step_of_asks h hf (Bool.or_true _)))
  refine ⟨s.follows _, fun _ he hl => traps ⟨he, hl⟩, fun hn => passes fun ⟨he, hl⟩ => ?_⟩
  have he' : s.controls .own .fien ≠ true := Bool.eq_false_iff.mp he
  obtain h3 | he1 | hl' := hn
  · exact he' (controls_fien_without_el3 h3 .own)
  · exact he' he1
  · exact hl' hl

/-- Settles O46: the routing function has one form for both interrupts, `route_fiq_irq`. -/
theorem fiqAndIrqRouting : Obligations.FiqAndIrqRouting := by
  unfold Obligations.FiqAndIrqRouting
  intro s k f hk h
  have hr := step_of_offers h
  rw [route_fiq_irq hk] at hr
  refine ⟨s.follows _, fun ho => ?taken, fun ho hl => ?below, fun ho hl => ?atEL3⟩
  case taken =>
    rw [if_pos ho] at hr
    exact hr
  case below =>
    rw [if_neg (Bool.eq_false_iff.mp ho), if_pos (belowEL3_iff.mpr hl)] at hr
    exact hr
  case atEL3 =>
    rw [if_neg (Bool.eq_false_iff.mp ho), if_neg fun hb => belowEL3_iff.mp hb hl] at hr
    exact hr

/-- Settles O50: both are decided by their own predicates; a rival enters that of a key register as one of the "other
traps" that come first (rule R92). -/
theorem pointerAuthTraps : Obligations.PointerAuthTraps := by
  unfold Obligations.PointerAuthTraps
  intro s rival hp
  refine ⟨s.follows _, fun enabled h => ?instruction, fun h => ?key⟩
  case instruction =>
    exact outcomes_of_iff trapPAuthInstr_iff (step_of_decided (step_of_asks h hp (Bool.or_true _)))
  case key =>
    have hk : trapPAuthKey (s.controls .own) s.el (s.inputs.hcrEl2Apk || rival) = true ↔
        s.controls .own .apk = false ∧ s.atEL1orEL2 ∧ s.inputs.hcrEl2Apk = false ∧ rival = false := by
      rw [trapPAuthKey_iff, Bool.or_eq_false_iff]
      rfl
    exact outcomes_of_iff hk (step_of_decided (step_of_asks h hp (Bool.or_true _)))

/-- Settles O51: contested by `trapErrorRecord`, whose register condition is membership in the rule's lists. -/
theorem terrTrapsErrorRecords : Obligations.TerrTrapsErrorRecords := by
  unfold Obligations.TerrTrapsErrorRecords
  intro s r rival h h3 hr listed
  have ht : trapErrorRecord (s.controls .own) s.el s.params.haveRAS84 s.usesAArch32 r = true ↔
      s.controls .own .terr = true ∧ s.atEL1orEL2 ∧ r ∈ listed := by
    rw [trapErrorRecord_iff, errorRecordReg_iff]
    rfl
  exact ⟨s.follows _, outcomes_of_iff ht (step_of_contested (step_of_asks_with_el3 h hr h3))⟩

/-- Settles O53: a WFE and a WFI are judged alike, each with its own control and its own lower traps. -/
theorem wfxTrapsOrCompletes : Obligations.WfxTrapsOrCompletes := by
  unfold Obligations.WfxTrapsOrCompletes
  intro s ws cc rival h3
  refine ⟨s.follows _, fun h => ?wfe, fun h => ?wfi⟩
  case wfe => exact outcomes_of_iff trapWfx_iff (step_of_wfx (step_of_asks_with_el3 h rfl h3))
  case wfi => exact outcomes_of_iff trapWfx_iff (step_of_wfx (step_of_asks_with_el3 h rfl h3))

/-- Settles O54: contested by `trapSecureTimer`, where Secure EL1 is EL1 with NS at 0. -/
theorem stTrapsSecureTimer : Obligations.StTrapsSecureTimer := by
  unfold Obligations.StTrapsSecureTimer
  intro s r rival h h3 armed
  have ht : trapSecureTimer (s.controls .own) s.el ((s.attempt rival).secure s.controls) s.usesAArch32 = true ↔
      armed := by
    rw [trapSecureTimer_iff, el1_and_secure_iff]
  exact ⟨s.follows _, outcomes_of_iff ht (step_of_contested (step_of_asks_with_el3 h rfl h3))⟩

/-- Settles O59: decided by `hvcUndefined`, where Secure EL1 is EL1 with NS at 0. -/
theorem hceDisablesHvc : Obligations.HceDisablesHvc := by
  unfold Obligations.HceDisablesHvc
  intro s rival h h3 disabled
  have hu : hvcUndefined (s.controls .own) s.el ((s.attempt rival).secure s.controls) = true ↔ disabled := by
    rw [hvcUndefined_iff, el1_and_secure_iff]
  exact ⟨s.follows _, outcomes_of_iff hu (step_of_decided (step_of_asks_with_el3 h rfl h3))⟩

end Sys2Proof.Machine
end

section
/-!
What `legal` and a reset leave in each bit: the three kinds of bit that rule R43 tells apart (a present field, an absent
one, a reserved bit), the rule's mask form, and the value a reset offers (rule R161).
-/

namespace Sys2Proof

variable (p : Params) {f : Field} {n : Nat}

/-! ## Field bits and reserved bits of the figure -/

/-- A column of the figure that names a field is that field's bit (rules R10, R11). -/
theorem bit_of_fieldAt (h : fieldAt n = some f) : f.bit = n := by
  unfold fieldAt at h
  split at h <;> cases h <;> rfl

theorem fieldAt_eq_none (h : ∀ f : Field, f.bit ≠ n) : fieldAt n = none :=
  Option.eq_none_iff_forall_ne_some.mpr fun f hf => h f (bit_of_fieldAt hf)

/-- `RES1_MASK` has bits 5 and 4 alone, and neither is a field's: one evaluation per bit (rule R19). -/
theorem res1Mask_getLsbD :
    ∀ n, n < 64 → (0x0000000000000030#64).getLsbD n = ((fieldAt n).isNone && decide (n = 5 ∨ n = 4)) := by
  decide

/-! ## The legal value, by the kind of bit -/

theorem reservedBit_eq (c b : Bool) : reservedBit p c b = if p.resPolicy = .hardwired then c else b := by
  unfold reservedBit
  split <;> simp [*]

theorem rwIsRAO_iff : rwIsRAO p = true ↔ p.haveAArch32EL2 = false ∧ p.haveAArch32EL1 = false := by
  simp [rwIsRAO]

theorem stored_legal_of_present (v : Word) (hf : f.present p = true) :
    stored (legal p v) f =
      if f = .rw ∧ p.haveAArch32EL2 = false ∧ p.haveAArch32EL1 = false then true else stored v f := by
  rw [stored, legal_getLsbD p v f.bit_lt, legalBit, fieldAt_bit]
  simp only [hf, if_true, rwIsRAO_iff, stored]

theorem stored_legal_of_absent (v : Word) (hf : f.present p = false) :
    stored (legal p v) f = if p.resPolicy = .hardwired then false else stored v f := by
  rw [stored, legal_getLsbD p v f.bit_lt, legalBit, fieldAt_bit]
  simp [hf, reservedBit_eq, stored]

theorem legal_getLsbD_of_reserved (v : Word) (hn : n < 64) (h : ∀ f : Field, f.bit ≠ n) :
    (legal p v).getLsbD n = if p.resPolicy = .hardwired then decide (n = 5 ∨ n = 4) else v.getLsbD n := by
  rw [legal_getLsbD p v hn, legalBit, fieldAt_eq_none h]
  by_cases h1 : n = 5 ∨ n = 4 <;> simp [h1, reservedBit_eq]

/-- The mask form of rule R43: every field keeps its bit, and of the other bits 5 and 4 alone are 1. -/
theorem legal_eq_masks (v : Word) (hf : ∀ f : Field, f.present p = true) (h32 : p.haveAArch32EL1 = true)
    (hw : p.resPolicy = .hardwired) :
    legal p v = (v &&& 0x00000000063FFF8F#64) ||| 0x0000000000000030#64 := by
  refine BitVec.eq_of_getLsbD_eq fun n hn => ?_
  rw [BitVec.getLsbD_or, BitVec.getLsbD_and, fieldMask_getLsbD n hn, res1Mask_getLsbD n hn]
  cases h : fieldAt n with
  | some f =>
    obtain rfl := bit_of_fieldAt h
    simpa [stored, h32] using stored_legal_of_present p v (hf f)
  | none =>
    have hr : ∀ f : Field, f.bit ≠ n := by
      rintro f rfl
      simp at h
    simpa [hw] using legal_getLsbD_of_reserved p v hn hr

/-! ## The value a reset offers -/

/-- The value of which a reset keeps the legal form: the draw, with NMEA and EASE cleared where R161 says so. -/
def resetOffer (p : Params) (u : Word) : Word :=
  if p.resetIntoAArch64 && p.haveDFE then u &&& ~~~resetClears else u

theorem resetScr_eq (u : Word) : resetScr p u = legal p (resetOffer p u) := rfl

theorem resetOffer_getLsbD (u : Word) (hn : n < 64) :
    (resetOffer p u).getLsbD n =
      if (n = 20 ∨ n = 19) ∧ p.haveDFE = true ∧ p.resetIntoAArch64 = true then false else u.getLsbD n := by
  unfold resetOffer
  by_cases hc : p.haveDFE = true ∧ p.resetIntoAArch64 = true
  · rw [if_pos (Bool.and_eq_true_iff.mpr hc.symm), BitVec.getLsbD_and, BitVec.getLsbD_not, resetClears_getLsbD,
      ← Bool.decide_or]
    by_cases h : n = 20 ∨ n = 19 <;> simp [h, hc, hn]
  · rw [if_neg fun h => hc (Bool.and_eq_true_iff.mp h).symm, if_neg fun h => hc h.2]

/-- At a field: NMEA and EASE alone are cleared, and only where the implementation has them (rule R161). -/
theorem stored_resetOffer (u : Word) (f : Field) :
    stored (resetOffer p u) f =
      if (f = .nmea ∨ f = .ease) ∧ f.present p = true ∧ p.resetIntoAArch64 = true then false else stored u f := by
  rw [stored, resetOffer_getLsbD p u f.bit_lt]
  cases f <;> simp [Field.bit, Field.present, stored]

/-- A reserved bit is offered as drawn: the bits a reset clears are those of NMEA and EASE. -/
theorem resetOffer_getLsbD_of_reserved (u : Word) (hn : n < 64) (h : ∀ f : Field, f.bit ≠ n) :
    (resetOffer p u).getLsbD n = u.getLsbD n := by
  rw [resetOffer_getLsbD p u hn, if_neg]
  rintro ⟨h20 | h19, -⟩
  · exact h .nmea h20.symm
  · exact h .ease h19.symm

end Sys2Proof
end

section
/-! What a reset leaves in SCR_EL3 (rule R161). -/

namespace Sys2Proof

/-- Settles O8: a reset keeps the legal form of `resetOffer`, so each row is that kind of bit in `legal`, read off the
value offered; the closed form is the mask form of `legal` without the two cleared bits. -/
theorem resetLeavesEachBit : Obligations.ResetLeavesEachBit := by
  unfold Obligations.ResetLeavesEachBit
  intro p u
  rw [resetScr_eq]
  refine ⟨fun f hf => ?present, fun f hf => ?absent, fun n hn hr => ?reserved, fun hf hw ha h32 => ?closed⟩
  case present =>
    rw [stored_legal_of_present p _ hf, stored_resetOffer]
    simp only [hf, true_and]
  case absent =>
    have hc : ¬((f = .nmea ∨ f = .ease) ∧ f.present p = true ∧ p.resetIntoAArch64 = true) :=
      fun ⟨_, ht, _⟩ => Bool.eq_false_iff.mp hf ht
    rw [stored_legal_of_absent p _ hf, stored_resetOffer, if_neg hc]
  case reserved => rw [legal_getLsbD_of_reserved p _ hn hr, resetOffer_getLsbD_of_reserved p u hn hr]
  case closed =>
    have hm : ~~~resetClears &&& 0x00000000063FFF8F#64 = 0x000000000627FF8F#64 := by decide
    have ho : resetOffer p u = u &&& ~~~resetClears := if_pos (Bool.and_eq_true_iff.mpr ⟨ha, hf .nmea⟩)
    rw [legal_eq_masks p _ hf h32 hw, ho, BitVec.and_assoc, hm]

end Sys2Proof
end

section
/-!
Encoding: the container's fields and its word determine each other (rule R62), a word's bytes and the word do too, and
each row of rule R62 is one condition on the word under the row's mask.
-/

namespace Sys2Proof

/-! ## Words, their fields and their bytes -/

/-- The container's fields cover every bit of the word (rule R62). -/
theorem toWord_ofWord (w : InstrWord) : (SysRegMove.ofWord w).toWord = w := by
  unfold SysRegMove.toWord SysRegMove.ofWord
  simp (disch := rfl) only [BitVec.extractLsb'_append_extractLsb'_eq_extractLsb']
  exact BitVec.extractLsb'_eq_self

/-- The four bytes of a word make it again (little-endian, rule R62). -/
theorem wordOfBytes_bytesOfWord (w : InstrWord) :
    wordOfBytes (w.extractLsb' 0 8) (w.extractLsb' 8 8) (w.extractLsb' 16 8) (w.extractLsb' 24 8) = w := by
  unfold wordOfBytes
  simp (disch := rfl) only [BitVec.extractLsb'_append_extractLsb'_eq_extractLsb']
  exact BitVec.extractLsb'_eq_self

/-- The fields of an access word are those it was made of. -/
@[simp] theorem ofWord_scrAccess (l : BitVec 1) (rt : BitVec 5) :
    SysRegMove.ofWord (scrAccess l rt).toWord = scrAccess l rt :=
  Laws.SysReg.fields_of_scrAccess l rt

/-- A word with the fields of an access is that access's word. -/
theorem ofWord_eq_scrAccess_iff {w : InstrWord} {l : BitVec 1} {rt : BitVec 5} :
    SysRegMove.ofWord w = scrAccess l rt ↔ w = (scrAccess l rt).toWord := by
  constructor
  · intro h
    rw [← h, toWord_ofWord]
  · rintro rfl
    exact ofWord_scrAccess l rt

/-! ## The rows of rule R62 by match and mask -/

/-- An access word is its row with the register number in the low five bits: one evaluation per word. -/
theorem scrAccess_toWord_eq (l : BitVec 1) (rt : BitVec 5) :
    (scrAccess l rt).toWord = (scrAccess l 0#5).toWord ||| rt.setWidth 32 := by
  revert l rt
  decide

/-- The mask of rule R62 leaves of an access word its row: one evaluation per word. -/
theorem scrAccess_toWord_masked (l : BitVec 1) (rt : BitVec 5) :
    (scrAccess l rt).toWord &&& 0xFFFFFFE0#32 = (scrAccess l 0#5).toWord := by
  revert l rt
  decide

/-- The register number of a word is its low five bits (rules R62, R63). -/
theorem ofWord_rt (w : InstrWord) : (SysRegMove.ofWord w).rt.setWidth 32 = w &&& 0x1F#32 := by
  apply BitVec.eq_of_toNat_eq
  have hr : w.toNat % 2 ^ 5 < 2 ^ 32 := Nat.lt_of_le_of_lt (Nat.mod_le _ _) w.isLt
  rw [BitVec.toNat_and, show (0x1F#32).toNat = 2 ^ 5 - 1 from rfl, Nat.and_two_pow_sub_one_eq_mod]
  simpa [SysRegMove.ofWord] using Nat.mod_eq_of_lt hr

theorem rt_toNat (w : InstrWord) : (SysRegMove.ofWord w).rt.toNat = (w &&& 0x1F#32).toNat := by
  rw [← ofWord_rt, BitVec.toNat_setWidth_of_le (by decide)]

/-- A word is an access exactly when the mask leaves its row (rule R62). -/
theorem ofWord_isAccess_iff (w : InstrWord) (l : BitVec 1) :
    SysRegMove.ofWord w = scrAccess l (SysRegMove.ofWord w).rt ↔
      w &&& 0xFFFFFFE0#32 = (scrAccess l 0#5).toWord := by
  rw [ofWord_eq_scrAccess_iff]
  constructor
  · intro h
    rw [h, scrAccess_toWord_masked]
  · intro h
    have hm : 0xFFFFFFE0#32 ||| 0x1F#32 = BitVec.allOnes 32 := by decide
    calc w = w &&& (0xFFFFFFE0#32 ||| 0x1F#32) := by rw [hm, BitVec.and_allOnes]
      _ = (scrAccess l 0#5).toWord ||| (SysRegMove.ofWord w).rt.setWidth 32 := by
        rw [BitVec.and_or_distrib_left, h, ofWord_rt]
      _ = (scrAccess l (SysRegMove.ofWord w).rt).toWord := (scrAccess_toWord_eq _ _).symm

/-! ## The decoder -/

theorem decodeWord_mrsScr (rt : BitVec 5) : decodeWord (scrAccess 1#1 rt).toWord = .ok (.mrsScr rt.toNat) := by
  simp only [decodeWord, ofWord_scrAccess]
  exact if_pos rfl

theorem decodeWord_msrScr (rt : BitVec 5) : decodeWord (scrAccess 0#1 rt).toWord = .ok (.msrScr rt.toNat) := by
  have hl : ¬ scrAccess 0#1 rt = scrAccess 1#1 rt := fun h => absurd (congrArg SysRegMove.l h) (by decide : 0#1 ≠ 1#1)
  simp only [decodeWord, ofWord_scrAccess]
  exact (if_neg hl).trans (if_pos rfl)

/-- The decoder reads the word of a well-formed instruction back (rules R62, R63). -/
theorem decodeWord_encodeWord {i : Instr} (h : i.wf = true) : decodeWord (encodeWord i) = .ok i := by
  cases i with
  | mrsScr t =>
    rw [encodeWord, decodeWord_mrsScr, BitVec.toNat_ofNat, Nat.mod_eq_of_lt (Nat.lt_succ_of_le (of_decide_eq_true h))]
  | msrScr t =>
    rw [encodeWord, decodeWord_msrScr, BitVec.toNat_ofNat, Nat.mod_eq_of_lt (Nat.lt_succ_of_le (of_decide_eq_true h))]

/-- Decoding the bytes of a word decodes the word, and the bytes after it stay. -/
theorem decode_bytesOfWord {w : InstrWord} {i : Instr} (h : decodeWord w = .ok i) (rest : List Byte) :
    decode (bytesOfWord w ++ rest) = .ok (i, rest) := by
  simp only [bytesOfWord, List.cons_append, List.nil_append, decode, wordOfBytes_bytesOfWord, h]

/-- The bytes of a word that does not decode are refused as the word is. -/
theorem decode_bytesOfWord_error {w : InstrWord} {e : DecodeError} (h : decodeWord w = .error e) :
    decode (bytesOfWord w) = .error e := by
  simp only [bytesOfWord, decode, wordOfBytes_bytesOfWord, h]

/-- The three ways a word decodes, by the mask of rule R62 (rules R62, R64). -/
theorem decodeWord_cases (w : InstrWord) :
    (w &&& 0xFFFFFFE0#32 = 0xD53E1100#32 ∧ decodeWord w = .ok (.mrsScr (w &&& 0x1F#32).toNat)) ∨
    (w &&& 0xFFFFFFE0#32 = 0xD51E1100#32 ∧ decodeWord w = .ok (.msrScr (w &&& 0x1F#32).toNat)) ∨
    (w &&& 0xFFFFFFE0#32 ≠ 0xD53E1100#32 ∧ w &&& 0xFFFFFFE0#32 ≠ 0xD51E1100#32 ∧
      decodeWord w = .error (.notDescribed w)) := by
  have h1 := ofWord_isAccess_iff w 1#1
  have h0 := ofWord_isAccess_iff w 0#1
  rw [show (scrAccess 1#1 0#5).toWord = 0xD53E1100#32 by decide] at h1
  rw [show (scrAccess 0#1 0#5).toWord = 0xD51E1100#32 by decide] at h0
  simp only [decodeWord, h1, h0, rt_toNat]
  by_cases c1 : w &&& 0xFFFFFFE0#32 = 0xD53E1100#32
  · exact .inl ⟨c1, if_pos c1⟩
  · by_cases c0 : w &&& 0xFFFFFFE0#32 = 0xD51E1100#32
    · exact .inr (.inl ⟨c0, (if_neg c1).trans (if_pos c0)⟩)
    · exact .inr (.inr ⟨c1, c0, (if_neg c1).trans (if_neg c0)⟩)

end Sys2Proof
end

section
/-! The statements on the decoder and the encoder (rules R60 to R64). -/

namespace Sys2Proof

/-- Settles O1: the bytes make the word again, and the word decodes to its instruction. -/
theorem decodeEncodeRoundTrip : Obligations.DecodeEncodeRoundTrip := by
  unfold Obligations.DecodeEncodeRoundTrip
  intro i rest h
  exact decode_bytesOfWord (decodeWord_encodeWord h) rest

/-- Settles O2: the three cases of `decodeWord_cases` exclude each other. -/
theorem decodeFollowsMatchAndMask : Obligations.DecodeFollowsMatchAndMask := by
  unfold Obligations.DecodeFollowsMatchAndMask
  intro w
  have hne : (0xD53E1100#32 : InstrWord) ≠ 0xD51E1100#32 := by decide
  obtain ⟨h1, hd⟩ | ⟨h0, hd⟩ | ⟨h1, h0, hd⟩ := decodeWord_cases w
  · exact ⟨fun _ => hd, fun h0 => absurd (h1.symm.trans h0) hne, fun n1 => absurd h1 n1⟩
  · exact ⟨fun h1 => absurd (h1.symm.trans h0) hne, fun _ => hd, fun _ n0 => absurd h0 n0⟩
  · exact ⟨fun c => absurd c h1, fun c => absurd c h0, fun _ _ => hd⟩

/-- The register number the decoder reads is one the encoding admits. -/
theorem rt_le (rt : BitVec 5) : decide (rt.toNat ≤ 31) = true := decide_eq_true (Nat.le_of_lt_succ rt.isLt)

/-- Settles O3: a word that matches a row is that row's word for its own register number. -/
theorem decodedWordIsItsEncoding : Obligations.DecodedWordIsItsEncoding := by
  unfold Obligations.DecodedWordIsItsEncoding
  intro w i h
  simp only [decodeWord] at h
  split at h
  case isTrue h1 =>
    cases h
    refine ⟨rt_le _, ?_⟩
    rw [encodeWord, BitVec.ofNat_toNat, BitVec.setWidth_eq, ← h1, toWord_ofWord]
  case isFalse h1 =>
    split at h
    case isTrue h0 =>
      cases h
      refine ⟨rt_le _, ?_⟩
      rw [encodeWord, BitVec.ofNat_toNat, BitVec.setWidth_eq, ← h0, toWord_ofWord]
    case isFalse h0 => cases h

/-- Settles O4: six words evaluated. -/
theorem specWordsDecode : Obligations.SpecWordsDecode := by
  unfold Obligations.SpecWordsDecode
  decide

end Sys2Proof
end

section
/-! The legal stored value of SCR_EL3, bit by bit (rule R43). -/

namespace Sys2Proof

/-- Settles O6: one law of `legal` for each kind of bit, and the mask form they make together. -/
theorem legalBitByBit : Obligations.LegalBitByBit := by
  unfold Obligations.LegalBitByBit
  intro p v
  exact ⟨fun _ => stored_legal_of_present p v, fun _ => stored_legal_of_absent p v,
    fun _ => legal_getLsbD_of_reserved p v, legal_eq_masks p v⟩

theorem reservedBit_idem (p : Params) (c b : Bool) : reservedBit p c (reservedBit p c b) = reservedBit p c b := by
  unfold reservedBit
  split <;> rfl

/-- Each bit is kept, fixed or reserved, and each of the three is idempotent (rule R43). -/
theorem legalBit_idem (p : Params) (n : Nat) (b : Bool) : legalBit p n (legalBit p n b) = legalBit p n b := by
  unfold legalBit
  cases fieldAt n with
  | some f =>
    dsimp only
    split_ifs
    · rfl
    · rfl
    · exact reservedBit_idem p false b
  | none =>
    dsimp only
    split_ifs <;> exact reservedBit_idem p _ b

theorem legal_idem (p : Params) (v : Word) : legal p (legal p v) = legal p v :=
  BitVec.eq_of_getLsbD_eq fun n hn => by simp only [legal_getLsbD p _ hn, legalBit_idem]

/-- Settles O7. -/
theorem legalIsIdempotent : Obligations.LegalIsIdempotent := by
  unfold Obligations.LegalIsIdempotent
  exact legal_idem

end Sys2Proof
end

section
/-! The two accesses: where they complete, what they change and what they leave (rules R70 to R75). -/

namespace Sys2Proof.Machine

variable {s s' : State}

/-! ## When an access answers a next state -/

/-- No wrap rule is given for the pc: at the top of the address space both accesses are refused (decision D7). -/
theorem exec_of_pcAtTop (i : Instr) (hl : s.el = .el3) (hp : 2 ^ 64 - 4 ≤ s.pc.toNat) : exec i s = .refused .pcAtTop := by
  cases i with
  | mrsScr t =>
    have hw : 2 ^ 64 - 4 ≤ (s.writeX t s.scr).pc.toNat := by rwa [s.writeX_pc]
    exact (if_pos (s.atEL3_iff.mpr hl)).trans (if_pos hw)
  | msrScr t => exact (if_pos (s.atEL3_iff.mpr hl)).trans (if_pos hp)

theorem exec_mrsScr_next {t : Nat} (h : exec (.mrsScr t) s = .next s') :
    s.el = .el3 ∧ s.pc.toNat < 2 ^ 64 - 4 ∧ s' = { s.writeX t s.scr with pc := s.pc + 4 } :=
  execMrsScr_next h

theorem exec_msrScr_next {t : Nat} (h : exec (.msrScr t) s = .next s') :
    s.el = .el3 ∧ s.pc.toNat < 2 ^ 64 - 4 ∧ s' = { s.writeScr (s.readX t) with pc := s.pc + 4 } :=
  execMsrScr_next h

/-- What both accesses have in common when they complete: the level, the pc and memory (rules R72, R74). -/
theorem exec_next {i : Instr} (h : exec i s = .next s') :
    s.el = .el3 ∧ s.pc.toNat < 2 ^ 64 - 4 ∧ s'.pc = s.pc + 4 ∧ s'.el = s.el ∧ s'.mem = s.mem := by
  cases i with
  | mrsScr t =>
    obtain ⟨hl, hp, rfl⟩ := exec_mrsScr_next h
    exact ⟨hl, hp, rfl, s.writeX_el t s.scr, s.writeX_mem t s.scr⟩
  | msrScr t =>
    obtain ⟨hl, hp, rfl⟩ := exec_msrScr_next h
    exact ⟨hl, hp, rfl, rfl, rfl⟩

theorem exec_completes_of_el3 (i : Instr) (hl : s.el = .el3) (hp : s.pc.toNat < 2 ^ 64 - 4) :
    ∃ s', exec i s = .next s' := by
  cases i with
  | mrsScr t => exact ⟨_, exec_mrsScr_of_el3 t hl hp⟩
  | msrScr t => exact ⟨_, exec_msrScr_of_el3 t hl hp⟩

/-- Below the bound of decision D7 the addition does not wrap. -/
theorem toNat_pc_add_four {pc : Word} (h : pc.toNat < 2 ^ 64 - 4) : (pc + 4).toNat = pc.toNat + 4 := by
  rw [BitVec.toNat_add]
  exact Nat.mod_eq_of_lt (Nat.add_lt_of_lt_sub h)

/-- Settles O15. -/
theorem accessBelowEL3IsUndefined : Obligations.AccessBelowEL3IsUndefined := by
  unfold Obligations.AccessBelowEL3IsUndefined
  exact fun _ i hl => exec_of_not_el3 i hl

/-- Settles O16: by the invariant the level is one the implementation has, so it is not EL3. -/
theorem accessWithoutEL3IsUndefined : Obligations.AccessWithoutEL3IsUndefined := by
  unfold Obligations.AccessWithoutEL3IsUndefined
  intro s i hinv h3
  refine exec_of_not_el3 i fun hl => ?_
  have hh : s.params.haveEL3 = true := by
    have := hinv.el
    rwa [hl] at this
  exact Bool.eq_false_iff.mp h3 hh

/-- Settles O17. -/
theorem accessCompletesExactlyAtEL3 : Obligations.AccessCompletesExactlyAtEL3 := by
  unfold Obligations.AccessCompletesExactlyAtEL3
  intro s i
  constructor
  · rintro ⟨s', h⟩
    obtain ⟨hl, hp, -⟩ := exec_next h
    exact ⟨hl, hp⟩
  · rintro ⟨hl, hp⟩
    exact exec_completes_of_el3 i hl hp

/-- Settles O18. -/
theorem accessAtTopIsRefused : Obligations.AccessAtTopIsRefused := by
  unfold Obligations.AccessAtTopIsRefused
  exact fun _ i => exec_of_pcAtTop i

/-- Settles O19. -/
theorem completedAccessAdvancesPc : Obligations.CompletedAccessAdvancesPc := by
  unfold Obligations.CompletedAccessAdvancesPc
  intro s s' i h
  obtain ⟨-, hp, hpc, -⟩ := exec_next h
  exact ⟨hpc, hpc ▸ toNat_pc_add_four hp⟩

/-! ## Register 31 -/

/-- Settles O12: the zero register discards the value, so the pc alone moves. -/
theorem mrsToZeroRegisterDiscards : Obligations.MrsToZeroRegisterDiscards := by
  unfold Obligations.MrsToZeroRegisterDiscards
  intro s hl hp
  rw [exec_mrsScr_of_el3 31 hl hp, s.writeX_zero (Nat.le_refl 31)]

/-- Settles O14: the zero register reads 0. -/
theorem msrFromZeroRegisterWritesZero : Obligations.MsrFromZeroRegisterWritesZero := by
  unfold Obligations.MsrFromZeroRegisterWritesZero
  intro s hl hp
  refine ⟨_, exec_msrScr_of_el3 31 hl hp, ?_, rfl⟩
  rw [s.readX_zero (Nat.le_refl 31)]
  exact s.writeScr_scr 0

/-! ## Frames -/

/-- Settles O20: the frame of `writeX`, with the pc moved on. -/
theorem mrsFrame : Obligations.MrsFrame := by
  unfold Obligations.MrsFrame
  intro s s' t h
  obtain ⟨-, -, rfl⟩ := exec_mrsScr_next h
  refine ⟨fun u hu => ?_, ?_⟩
  · rw [readX_with_pc, s.readX_writeX_other hu]
  · simp

/-- Settles O21: the frame of `writeScr`, with the pc moved on. -/
theorem msrFrame : Obligations.MsrFrame := by
  unfold Obligations.MsrFrame
  intro s s' t h
  obtain ⟨-, -, rfl⟩ := exec_msrScr_next h
  refine ⟨fun u => State.readX_congr rfl u, ?_⟩
  simp

/-! ## A read and a write in a row -/

/-- With room for two accesses the pc is below the bound before the first and before the second. -/
theorem room_for_two {pc : Word} (h : pc.toNat + 4 < 2 ^ 64 - 4) :
    pc.toNat < 2 ^ 64 - 4 ∧ (pc + 4).toNat < 2 ^ 64 - 4 := by
  have h1 : pc.toNat < 2 ^ 64 - 4 := Nat.lt_of_le_of_lt (Nat.le_add_right _ 4) h
  exact ⟨h1, (toNat_pc_add_four h1).symm ▸ h⟩

/-- Settles O22: the write leaves the legal value in SCR_EL3, and the read after it copies SCR_EL3. -/
theorem readAfterWrite : Obligations.ReadAfterWrite := by
  unfold Obligations.ReadAfterWrite
  intro s t u hu hl hp
  obtain ⟨hp1, hp2⟩ := room_for_two hp
  refine ⟨_, _, exec_msrScr_of_el3 t hl hp1, exec_mrsScr_of_el3 u hl hp2, ?_⟩
  rw [readX_with_pc, State.readX_writeX_same _ hu]
  exact s.writeScr_scr (s.readX t)

/-- Settles O23: the read copies the stored value, which is legal, so the write makes it legal once more. -/
theorem writeBackPreservesScr : Obligations.WriteBackPreservesScr := by
  unfold Obligations.WriteBackPreservesScr
  intro s t hinv ht hl hp
  obtain ⟨hp1, hp2⟩ := room_for_two hp
  have hl' : (s.writeX t s.scr).el = .el3 := (s.writeX_el t s.scr).trans hl
  refine ⟨_, _, exec_mrsScr_of_el3 t hl hp1, exec_msrScr_of_el3 t hl' hp2, ?_⟩
  have hr : ({ s.writeX t s.scr with pc := s.pc + 4 } : State).readX t = s.scr := by
    rw [readX_with_pc, s.readX_writeX_same ht]
  rw [hr]
  simpa using hinv.scr

/-! ## What a write makes of other views of the register -/

/-- Settles O24: `legal` keeps EEL2, NS and RW as written, and with EEL2 1 and NS 0 clause 3 of rule R35 or an earlier
one gives 1. -/
theorem secureEL2OverridesRw : Obligations.SecureEL2OverridesRw := by
  unfold Obligations.SecureEL2OverridesRw
  intro s s' t h hsec hrao he hn
  obtain ⟨-, -, rfl⟩ := exec_msrScr_next h
  have keeps : ∀ f : Field, f.present s.params = true → stored (legal s.params (s.readX t)) f = stored (s.readX t) f :=
    fun f hf => stored_legal s.params _ hf fun _ => hrao
  have hns := (keeps .ns rfl).trans hn
  have heel2 : effEEL2 s.params (legal s.params (s.readX t)) = true := by
    simp [effEEL2, hsec, keeps .eel2 hsec, he]
  refine ⟨keeps .rw rfl, ?_⟩
  show effRWWith s.params (effEEL2 s.params (legal s.params (s.readX t))) (legal s.params (s.readX t)) = true
  simp [effRWWith, heel2, hns]

/-- Settles O25: the write changes neither the implementation nor the inputs. -/
theorem aArch32ScrMapping : Obligations.AArch32ScrMapping := by
  unfold Obligations.AArch32ScrMapping
  intro s s' t h
  obtain ⟨-, -, rfl⟩ := exec_msrScr_next h
  refine ⟨fun hm => if_pos hm, fun hm => ?_⟩
  simp [State.aarch32Scr, hm]

end Sys2Proof.Machine
end

section
/-! The step: fetching a word and running the instruction it decodes to (rules R62, R64, R74). -/

namespace Sys2Proof.Machine

variable {s s' : State}

/-! ## What a fetch gives -/

theorem fetchDecode_of_decode {m : List Host.Cell} {pc : Word} {bs rest : List Byte} {i : Instr}
    (hb : readBytes m pc.toNat 4 = some bs) (hd : decode bs = .ok (i, rest)) : fetchDecode m pc = .next i := by
  simp only [fetchDecode, hb, hd]

theorem fetchDecode_of_notDescribed {m : List Host.Cell} {pc : Word} {bs : List Byte} {w : InstrWord}
    (hb : readBytes m pc.toNat 4 = some bs) (hd : decode bs = .error (.notDescribed w)) :
    fetchDecode m pc = .refused (.notDescribed w) := by
  simp only [fetchDecode, hb, hd]

/-- Without a mark on the four bytes neither SIF nor NS is asked (rules R101, R107). -/
theorem fetchChecked_of_unmarked (hm : s.fetchMarked = false) : s.fetchChecked = .next s := by
  rw [State.fetchChecked, hm]
  rfl

/-- With a mark on them the fetch is judged, and a permitted one spends its draws. -/
theorem fetchChecked_of_marked (hm : s.fetchMarked = true) {a : Answer}
    (ha : judge (s.attempt false) s.controls (.fetch s.pc) = .next a) : s.fetchChecked = .next s.drawn := by
  simp only [State.fetchChecked, hm, if_true, ha]

/-- A permitted fetch of an instruction runs it. -/
theorem step_of_fetchDecode {i : Instr} (he : s.events = []) (hc : s.fetchChecked = .next s')
    (hd : fetchDecode s.mem s.pc = .next i) : step s = exec i s' := by
  have hf : fetch s = .next (i, s') := by simp only [fetch, hc, hd]
  simp only [step, he, hf]

/-- A permitted fetch of a word the spec does not describe is refused (rule R64, D13). -/
theorem step_of_fetchDecode_refused {r : Refusal} (he : s.events = []) (hc : s.fetchChecked = .next s')
    (hd : fetchDecode s.mem s.pc = .refused r) : step s = .refused r := by
  have hf : fetch s = .refused r := by simp only [fetch, hc, hd]
  simp only [step, he, hf]

/-! ## A placed word -/

theorem tableWord_toNat (w : InstrWord) : tableWord 32 w.toNat = w := by
  rw [tableWord, Nat.mod_eq_of_lt w.isLt, BitVec.ofNat_toNat, BitVec.setWidth_eq]

/-- No mark is left on the bytes of a placed word (log 10). -/
theorem withFetchWord_unmarked (s : State) (nbits w : Nat) : (s.withFetchWord nbits w).fetchMarked = false := by
  simp [State.fetchMarked, State.withFetchWord]

/-- The fetch reads the placed word's bytes back (log 3). -/
theorem readBytes_withFetchWord (w : InstrWord) (hp : s.pc.toNat + 4 ≤ 2 ^ 64) :
    readBytes (s.withFetchWord 32 w.toNat).mem (s.withFetchWord 32 w.toNat).pc.toNat 4 = some (bytesOfWord w) := by
  show readBytes (writeBytes s.mem s.pc.toNat (bytesOfWord (tableWord 32 w.toNat))) s.pc.toNat 4 = _
  rw [tableWord_toNat]
  exact readBytes_writeBytes (bytesOfWord w) s.mem s.pc.toNat hp

/-! ## The statements -/

/-- Settles O26: the fetch check gives the state in which the instruction runs. -/
theorem stepRunsTheDecodedInstruction : Obligations.StepRunsTheDecodedInstruction := by
  unfold Obligations.StepRunsTheDecodedInstruction
  intro s i bs rest he hb hd
  have hf := fetchDecode_of_decode hb hd
  exact ⟨fun hm => step_of_fetchDecode he (fetchChecked_of_unmarked hm) hf,
    fun hm _ ha => step_of_fetchDecode he (fetchChecked_of_marked hm ha) hf⟩

/-- Settles O27: the placed bytes are read back, unmarked, and decode to the instruction. -/
theorem placedWordRunsNext : Obligations.PlacedWordRunsNext := by
  unfold Obligations.PlacedWordRunsNext
  intro s i hwf hp
  have hd := decode_bytesOfWord (decodeWord_encodeWord hwf) []
  rw [List.append_nil] at hd
  exact step_of_fetchDecode rfl (fetchChecked_of_unmarked (withFetchWord_unmarked s _ _))
    (fetchDecode_of_decode (readBytes_withFetchWord _ hp) hd)

/-- Settles O28: the placed bytes are read back, unmarked, and the decoder refuses their word. -/
theorem undescribedWordStopsTheStep : Obligations.UndescribedWordStopsTheStep := by
  unfold Obligations.UndescribedWordStopsTheStep
  intro s w hp h1 h0
  have hd := decode_bytesOfWord_error ((decodeFollowsMatchAndMask w).2.2 h1 h0)
  exact step_of_fetchDecode_refused rfl (fetchChecked_of_unmarked (withFetchWord_unmarked s _ _))
    (fetchDecode_of_notDescribed (readBytes_withFetchWord w hp) hd)

/-- Settles O32: an instruction that completes does so at EL3, and fetching it does not change the level. -/
theorem noInstructionCompletesBelowEL3 : Obligations.NoInstructionCompletesBelowEL3 := by
  unfold Obligations.NoInstructionCompletesBelowEL3
  intro s s' he hl h
  obtain ⟨ev, rest, hev, -⟩ | ⟨i, d, -, -, hx⟩ := step_next h
  · exact List.cons_ne_nil _ _ (hev.symm.trans he)
  · obtain ⟨hl', -⟩ := exec_next hx
    exact hl hl'

end Sys2Proof.Machine
end

section
/-! What a step changes of SCR_EL3, the level, the pc and memory (rules R44, R50, R145, R146). -/

namespace Sys2Proof.Machine

variable {s s' : State}

/-- Every event but a reset keeps SCR_EL3 and the pc. -/
theorem deliver_keeps_scr_pc {ev : Event} (h : deliver ev s = .next s') (hr : ev ≠ .reset) :
    s'.scr = s.scr ∧ s'.pc = s.pc := by
  obtain ⟨rfl, -⟩ | ⟨-, rfl⟩ | ⟨-, rfl⟩ | ⟨n, v, -, rfl⟩ | ⟨l, -, -, rfl⟩ | ⟨b, -, rfl⟩ | ⟨i, -, rfl⟩ | ⟨m, -, rfl⟩ |
    ⟨k, b, -, rfl⟩ | ⟨d, a, -, -, rfl⟩ := deliver_next h
  · exact absurd rfl hr
  all_goals simp

/-- No event changes the implementation or writes memory. -/
theorem deliver_keeps_params_mem {ev : Event} (h : deliver ev s = .next s') :
    s'.params = s.params ∧ s'.mem = s.mem := by
  obtain ⟨-, rfl⟩ | ⟨-, rfl⟩ | ⟨-, rfl⟩ | ⟨n, v, -, rfl⟩ | ⟨l, -, -, rfl⟩ | ⟨b, -, rfl⟩ | ⟨i, -, rfl⟩ | ⟨m, -, rfl⟩ |
    ⟨k, b, -, rfl⟩ | ⟨d, a, -, -, rfl⟩ := deliver_next h
  all_goals simp

/-- The level after an event: the reset level, the level the environment sets, or the level before. -/
theorem deliver_el {ev : Event} (h : deliver ev s = .next s') :
    (ev = .reset ∧ s'.el = s.params.resetLevel) ∨
    (ev = .setEL s'.el ∧ s.params.hasLevel s'.el = true) ∨
    s'.el = s.el := by
  obtain ⟨rfl, rfl⟩ | ⟨-, rfl⟩ | ⟨-, rfl⟩ | ⟨n, v, -, rfl⟩ | ⟨l, rfl, hl, rfl⟩ | ⟨b, -, rfl⟩ | ⟨i, -, rfl⟩ | ⟨m, -, rfl⟩ |
    ⟨k, b, -, rfl⟩ | ⟨d, a, -, -, rfl⟩ := deliver_next h
  · exact .inl ⟨rfl, rfl⟩
  case inr.inr.inr.inr.inl => exact .inr (.inl ⟨rfl, hl⟩)
  all_goals exact .inr (.inr (by simp))

/-- Settles O31: of the events a reset alone changes SCR_EL3, of the instructions its write alone. -/
theorem scrChangesOnlyByWriteOrReset : Obligations.ScrChangesOnlyByWriteOrReset := by
  unfold Obligations.ScrChangesOnlyByWriteOrReset
  intro s s' h hne
  obtain ⟨ev, rest, he, hd⟩ | ⟨i, d, he, hf, hx⟩ := step_next h
  case inl =>
    by_cases hr : ev = .reset
    · exact .inl ⟨rest, hr ▸ he⟩
    · exact absurd (deliver_keeps_scr_pc hd hr).1 hne
  case inr =>
    cases i with
    | mrsScr t =>
      obtain ⟨-, -, rfl⟩ := exec_mrsScr_next hx
      exact absurd (State.writeX_scr _ t _) hne
    | msrScr t =>
      obtain ⟨hl, -, rfl⟩ := exec_msrScr_next hx
      exact .inr ⟨he, hl, t, hf, rfl⟩

/-- Settles O33: an access keeps the level, a reset enters one the implementation has by the invariant, and the
environment sets only such a level. -/
theorem levelChangesOnlyFromOutside : Obligations.LevelChangesOnlyFromOutside := by
  unfold Obligations.LevelChangesOnlyFromOutside
  intro s s' hinv h hne
  obtain ⟨ev, rest, he, hd⟩ | ⟨i, d, -, -, hx⟩ := step_next h
  case inl =>
    obtain ⟨rfl, hl⟩ | ⟨hev, hl⟩ | hl := deliver_el hd
    · exact ⟨hl ▸ hinv.params, .inl ⟨rest, he⟩⟩
    · exact ⟨hl, .inr ⟨rest, hev ▸ he⟩⟩
    · exact absurd hl hne
  case inr =>
    obtain ⟨-, -, -, hl, -⟩ := exec_next hx
    exact absurd hl hne

/-- Settles O34: an access that completes moves the pc by 4, no event but a reset moves it, and neither writes memory. -/
theorem pcMovesOnlyByAccessOrReset : Obligations.PcMovesOnlyByAccessOrReset := by
  unfold Obligations.PcMovesOnlyByAccessOrReset
  intro s s' h
  obtain ⟨ev, rest, he, hd⟩ | ⟨i, d, he, -, hx⟩ := step_next h
  case inl =>
    have hm := (deliver_keeps_params_mem hd).2
    refine ⟨fun hne => ?_, fun a => congrArg (readByte · a) hm⟩
    by_cases hr : ev = .reset
    · exact .inl ⟨rest, hr ▸ he⟩
    · exact absurd (deliver_keeps_scr_pc hd hr).2 hne
  case inr =>
    obtain ⟨hl, -, hpc, -, hm⟩ := exec_next hx
    exact ⟨fun _ => .inr ⟨he, hl, hpc⟩, fun a => congrArg (readByte · a) hm⟩

/-! ## Reset, and reads with steps between them -/

/-- Settles O9: the fields of `doReset`. -/
theorem resetEventResets : Obligations.ResetEventResets := by
  unfold Obligations.ResetEventResets
  intro s rest he
  have hs : step s = .next (State.doReset { s with events := rest }) := by simp only [step, he, deliver]
  refine ⟨_, hs, ?_⟩
  simp [State.readX]

/-- Steps of which none writes SCR_EL3 or resets keep it. -/
theorem QuietRun.scr_eq (h : QuietRun s s') : s'.scr = s.scr := by
  induction h with
  | refl => rfl
  | @step s s1 s2 hs hq _ ih =>
    refine ih.trans (by_contra fun hne => hq ?_)
    exact (scrChangesOnlyByWriteOrReset s s1 hs hne).imp_right fun ⟨he, _, t, ht, _⟩ => ⟨he, t, ht⟩

/-- A completed read leaves in `X[t]` what SCR_EL3 holds, before and after it (rule R70). -/
theorem readX_of_exec_mrsScr {t : Nat} (ht : t < 31) (h : exec (.mrsScr t) s = .next s') :
    s'.readX t = s.scr ∧ s'.scr = s.scr := by
  obtain ⟨-, -, rfl⟩ := exec_mrsScr_next h
  exact ⟨(readX_with_pc _ _ t).trans (s.readX_writeX_same ht s.scr), s.writeX_scr t s.scr⟩

/-- Settles O10: each read copies SCR_EL3, and no quiet step changes it. -/
theorem repeatedReadsAgree : Obligations.RepeatedReadsAgree := by
  unfold Obligations.RepeatedReadsAgree
  intro s s1 s2 s3 t u ht hu h1 hq h3
  obtain ⟨hx1, hs1⟩ := readX_of_exec_mrsScr ht h1
  obtain ⟨hx3, -⟩ := readX_of_exec_mrsScr hu h3
  rw [hx3, hq.scr_eq, hs1, hx1]

end Sys2Proof.Machine
end

section
/-!
The TLB's record of held values field by field (rule R52), and the invariant of the machine: each update keeps it, so
every step does.
-/

namespace Sys2Proof.Machine

/-! ## Held values -/

/-- A value is held after an addition when it is the one added or was held before. -/
theorem Held.has_add (h : Held) (b c : Bool) : (h.add b).has c = true ↔ b = c ∨ h.has c = true := by
  cases b <;> cases c <;> simp [Held.add, Held.has]

@[simp] theorem Held.not_has_none (b : Bool) : Held.none.has b = false := by cases b <;> rfl

/-- What the record holds of a field; of a field that is not cacheable it holds nothing (rule R52). -/
def TlbHeld.get (h : TlbHeld) : Field → Held
  | .ata => h.ata
  | .eel2 => h.eel2
  | .rw => h.rw
  | .sif => h.sif
  | _ => Held.none

theorem cacheable_iff {f : Field} : f.cacheable = true ↔ f = .ata ∨ f = .eel2 ∨ f = .rw ∨ f = .sif := by
  cases f <;> simp [Field.cacheable]

theorem TlbHeld.get_add {f : Field} (hf : f.cacheable = true) (h : TlbHeld) (e : Controls) :
    (h.add e).get f = (h.get f).add (e f) := by
  obtain rfl | rfl | rfl | rfl := cacheable_iff.mp hf <;> rfl

/-- The record includes controls when it holds each cacheable field's value. -/
theorem TlbHeld.includes_iff {h : TlbHeld} {e : Controls} :
    h.includes e = true ↔ ∀ f : Field, f.cacheable = true → (h.get f).has (e f) = true := by
  simp [TlbHeld.includes, cacheable_iff, TlbHeld.get, and_assoc]

/-- Controls just added are included. -/
theorem TlbHeld.includes_add (h : TlbHeld) (e : Controls) : (h.add e).includes e = true :=
  includes_iff.mpr fun f hf => by
    rw [get_add hf]
    exact (Held.has_add _ _ _).mpr (.inl rfl)

/-- Adding the Effective values of a list of register values holds those, and what was held before. -/
theorem TlbHeld.has_foldl_add {f : Field} (hf : f.cacheable = true) (p : Params) (b : Bool) (ws : List Word)
    (h : TlbHeld) :
    ((ws.foldl (fun h w => h.add (eff p w)) h).get f).has b = true ↔
      (h.get f).has b = true ∨ ∃ w ∈ ws, eff p w f = b := by
  induction ws generalizing h with
  | nil => simp
  | cons w ws ih =>
    rw [List.foldl_cons, ih, get_add hf, Held.has_add, List.exists_mem_cons_iff, or_comm (a := eff p w f = b), or_assoc]

/-- After an invalidation a value is held exactly when it is that of a value still visible (rule R52; log 8). -/
theorem has_heldAfterInvalidate {f : Field} (hf : f.cacheable = true) (p : Params) (scr : Word) (window : List Word)
    (b : Bool) :
    ((heldAfterInvalidate p scr window).get f).has b = true ↔ ∃ v, (v = scr ∨ v ∈ window) ∧ eff p v f = b := by
  have hn : (TlbHeld.none.get f).has b = false := by cases f <;> exact Held.not_has_none b
  rw [heldAfterInvalidate, TlbHeld.has_foldl_add hf, TlbHeld.get_add hf, Held.has_add, hn]
  simp only [Bool.false_eq_true, or_false, or_and_right, exists_or, exists_eq_left]

theorem heldAfterInvalidate_includes (p : Params) (scr : Word) (window : List Word) :
    (heldAfterInvalidate p scr window).includes (eff p scr) = true :=
  TlbHeld.includes_iff.mpr fun _ hf => (has_heldAfterInvalidate hf p scr window _).mpr ⟨scr, .inl rfl, rfl⟩

/-- Settles O37: the four cacheable fields alike. -/
theorem tlbInvalidateKeepsVisibleValues : Obligations.TlbInvalidateKeepsVisibleValues := by
  unfold Obligations.TlbInvalidateKeepsVisibleValues
  intro s rest he
  have hs : step s = .next (State.tlbInvalidate { s with events := rest }) := by simp only [step, he, deliver]
  have held := fun (f : Field) (hf : f.cacheable = true) => has_heldAfterInvalidate hf s.params s.scr s.window
  exact ⟨_, hs, rfl, fun b => ⟨held .ata rfl b, held .eel2 rfl b, held .rw rfl b, held .sif rfl b⟩⟩

/-! ## The invariant, update by update -/

variable {s s' : State}

/-- The invariant reads six fields of the state. -/
theorem MachineInv.congr (h : MachineInv s) (hm : s'.mem = s.mem) (hp : s'.params = s.params) (hc : s'.scr = s.scr)
    (hw : s'.window = s.window) (hl : s'.el = s.el) (hh : s'.held = s.held) : MachineInv s' where
  mem := hm ▸ h.mem
  params := hp ▸ h.params
  scr := by rw [hp, hc, h.scr]
  window := by rw [hw, hp]; exact h.window
  el := by rw [hp, hl, h.el]
  held := by rw [hp, hc, hh, h.held]

theorem MachineInv.writeX (h : MachineInv s) (t : Nat) (v : Word) : MachineInv (s.writeX t v) :=
  h.congr (by simp) (by simp) (by simp) (by simp) (by simp) (by simp)

/-- The write stores a legal value, and the value it leaves visible was one. -/
theorem MachineInv.writeScr (h : MachineInv s) (v : Word) : MachineInv (s.writeScr v) where
  mem := h.mem
  params := h.params
  scr := legal_idem s.params v
  window w hw := by
    rcases List.mem_append.mp hw with hw | hw
    · exact h.window w hw
    · exact List.mem_singleton.mp hw ▸ h.scr
  el := h.el
  held := TlbHeld.includes_add _ _

theorem MachineInv.doReset (h : MachineInv s) : MachineInv s.doReset where
  mem := h.mem
  params := h.params
  scr := legal_idem s.params _
  window := fun _ hw => nomatch hw
  el := h.params
  held := TlbHeld.includes_add _ _

theorem MachineInv.ctxSync (h : MachineInv s) : MachineInv s.ctxSync :=
  { h with window := fun _ hw => nomatch hw }

theorem MachineInv.tlbInvalidate (h : MachineInv s) : MachineInv s.tlbInvalidate :=
  { h with held := heldAfterInvalidate_includes s.params s.scr s.window }

/-- Every event keeps the invariant; those that touch none of its fields by `congr`. -/
theorem MachineInv.deliver {ev : Event} (h : MachineInv s) (hd : deliver ev s = .next s') : MachineInv s' := by
  obtain ⟨-, rfl⟩ | ⟨-, rfl⟩ | ⟨-, rfl⟩ | ⟨n, v, -, rfl⟩ | ⟨l, -, hl, rfl⟩ | ⟨b, -, rfl⟩ | ⟨i, -, rfl⟩ | ⟨m, -, rfl⟩ |
    ⟨k, b, -, rfl⟩ | ⟨d, a, -, -, rfl⟩ := deliver_next hd
  · exact h.doReset
  · exact h.ctxSync
  · exact h.tlbInvalidate
  · exact h.writeX n v
  · exact { h with el := hl }
  all_goals exact h.congr rfl rfl rfl rfl rfl rfl

/-- Both accesses keep the invariant and the implementation. -/
theorem MachineInv.exec {i : Instr} (h : MachineInv s) (hx : exec i s = .next s') :
    MachineInv s' ∧ s'.params = s.params := by
  cases i with
  | mrsScr t =>
    obtain ⟨-, -, rfl⟩ := exec_mrsScr_next hx
    exact ⟨(h.writeX t s.scr).congr rfl rfl rfl rfl rfl rfl, s.writeX_params t s.scr⟩
  | msrScr t =>
    obtain ⟨-, -, rfl⟩ := exec_msrScr_next hx
    exact ⟨(h.writeScr (s.readX t)).congr rfl rfl rfl rfl rfl rfl, rfl⟩

/-! ## The statements -/

theorem machineInv_ofReset {p : Params} (hp : p.wf = true) (u : Word) : MachineInv (State.ofReset p u) where
  mem := ⟨List.Pairwise.nil, fun _ hc => nomatch hc⟩
  params := hp
  scr := legal_idem p _
  window := fun _ hw => nomatch hw
  el := hp
  held := TlbHeld.includes_add _ _

/-- Settles O29. -/
theorem resetMeetsInvariant : Obligations.ResetMeetsInvariant := by
  unfold Obligations.ResetMeetsInvariant
  exact ⟨fun _ u hp => machineInv_ofReset hp u, machineInv_ofReset rfl _⟩

/-- Settles O30: a step delivers an event or runs an access, and each update keeps the invariant. -/
theorem stepKeepsInvariant : Obligations.StepKeepsInvariant := by
  unfold Obligations.StepKeepsInvariant
  intro s s' hinv h
  obtain ⟨ev, rest, -, hd⟩ | ⟨i, d, -, -, hx⟩ := step_next h
  · have hs : MachineInv { s with events := rest } := hinv.congr rfl rfl rfl rfl rfl rfl
    exact ⟨hs.deliver hd, (deliver_keeps_params_mem hd).1⟩
  · have hs : MachineInv { s with draws := d } := hinv.congr rfl rfl rfl rfl rfl rfl
    exact hs.exec hx

end Sys2Proof.Machine
end

section
/-! What an evaluation sees of the hidden state (rules R52, R56). -/

namespace Sys2Proof.Machine

/-- A TLB copy serves the cacheable fields and ST alone (rule R52). -/
theorem not_servedByCopy {f : Field} (hc : f.cacheable = false) (hst : f ≠ .st) : servedByCopy f = false := by
  unfold servedByCopy
  split
  · exact absurd rfl hst
  · exact hc

/-- A control outside the TLB copies is seen at its Effective value in the governing value (rule R52). -/
theorem seen_of_not_cacheable {f : Field} (hc : f.cacheable = false) (hst : f ≠ .st) (p : Params) (h : TlbHeld)
    (v w : Word) (c : Nat) : seen p h v w c f = eff p v f :=
  seen_of_not_served (not_servedByCopy hc hst) p h v w c

/-- Settles O35: the two values are the governing ones, and each cacheable field is a `copyOr` of what it is in them. -/
theorem controlsAreVisibleValues : Obligations.ControlsAreVisibleValues := by
  unfold Obligations.ControlsAreVisibleValues
  intro s r
  exact ⟨s.governing (Config.choice s.draws (.governing r)), s.governing (Config.choice s.draws (.secureEL2 r)),
    governing_mem s _, governing_mem s _, copyOr_cases _ _ _ _, copyOr_cases _ _ _ _, copyOr_cases _ _ _ _,
    copyOr_cases _ _ _ _, rfl, fun _ hc hst => seen_of_not_cacheable hc hst _ _ _ _ _⟩

/-- Settles O36: with an empty window a field is settled unless a TLB copy can serve it. -/
theorem ctxSyncClosesTheWindow : Obligations.CtxSyncClosesTheWindow := by
  unfold Obligations.CtxSyncClosesTheWindow
  intro s rest he
  have hs : step s = .next (State.ctxSync { s with events := rest }) := by simp only [step, he, deliver]
  refine ⟨_, hs, rfl, rfl, rfl, fun r f hf => controls_of_settledFor ?_ r⟩
  obtain hn | ⟨hc, hst⟩ := hf
  · simp [State.settledFor, hn]
  · simp [State.settledFor, not_servedByCopy hc hst]

end Sys2Proof.Machine
end

section
/-! The Effective values of the fields (rules R20 to R42), and what they make of the levels below EL3 (R100, R107, R108). -/

namespace Sys2Proof

/-! ## Effective values -/

/-- Settles O38: the clauses of `effFIEN`, `effPAuth` and `effEEL2`. -/
theorem effectiveValuesWithoutEL3 : Obligations.EffectiveValuesWithoutEL3 := by
  unfold Obligations.EffectiveValuesWithoutEL3
  intro p v
  refine ⟨fun h3 => ?fien1, fun h3 hf => ?fien, fun hp h3 => ?pauth1, fun hp h3 => ?pauth, fun hs => ?noSecEL2,
    fun hs => ?eel2⟩
  case fien1 => simp [eff, effFIEN, h3]
  case fien => simp [eff, effFIEN, h3, hf]
  case pauth1 => simp [eff, effPAuth, hp, h3]
  case pauth => simp [eff, effPAuth, hp, h3]
  case noSecEL2 => simp [eff, effEEL2, hs]
  case eel2 => simp [eff, effEEL2, hs, and_assoc]

/-- Settles O39: the clauses of `effRWWith` in their order. -/
theorem effectiveRw : Obligations.EffectiveRw := by
  unfold Obligations.EffectiveRw
  intro p v
  have clause2 : (p.haveAArch32EL1 && stored v .ns && !p.haveAArch32EL2) = true ↔
      p.haveAArch32EL1 = true ∧ stored v .ns = true ∧ p.haveAArch32EL2 = false := by simp [and_assoc]
  have clause3 : (effEEL2 p v && !stored v .ns) = true ↔ eff p v .eel2 = true ∧ stored v .ns = false := by simp [eff]
  exact if_congr (rwIsRAO_iff p) rfl (if_congr clause2 rfl (if_congr clause3 rfl rfl))

/-- Settles O40. -/
theorem effectiveOfTheOtherFields : Obligations.EffectiveOfTheOtherFields := by
  unfold Obligations.EffectiveOfTheOtherFields
  intro p v
  refine ⟨rfl, ?hce, fun f hf => ?listed⟩
  case hce => simp [eff, Field.present]
  case listed =>
    have plain : eff p v f = (f.present p && stored v f) := by
      revert hf
      cases f <;> simp [eff]
    rw [plain]
    cases f.present p <;> rfl

theorem eff_ns (p : Params) (v : Word) : eff p v .ns = stored v .ns := Bool.true_and _

/-- With Secure EL2 enabled in Secure state RW is 1, by clause 3 of rule R35 or an earlier one. -/
theorem eff_rw_of_secureEL2 {p : Params} {v : Word} (he : eff p v .eel2 = true) (hn : stored v .ns = false) :
    eff p v .rw = true := by
  rw [effectiveRw p v]
  simp [he, hn]

end Sys2Proof

namespace Sys2Proof.Machine

/-! ## The levels below EL3 -/

/-- Settles O55: with RW 0 Secure EL2 is not enabled in Secure state, so RW says it of EL2 too; with RW 1 EL1 is the next
lower level where no EL2 is usable. -/
theorem executionStateOfLowerLevels : Obligations.ExecutionStateOfLowerLevels := by
  unfold Obligations.ExecutionStateOfLowerLevels
  intro p v _
  refine ⟨fun hr => ⟨?el1, ?el0, fun h2 => ?el2⟩, fun hr h2 => ?el2of1, fun hr h2 => ?noEL2, fun hr hn he => ?unusable⟩
  case el1 => simp [aarch32At, hr]
  case el0 => simp [aarch32At, hr]
  case el2 =>
    have hs : ¬(eff p v .eel2 = true ∧ stored v .ns = false) := fun ⟨he, hn⟩ =>
      Bool.eq_false_iff.mp hr (eff_rw_of_secureEL2 he hn)
    simp [aarch32At, h2, hr, eff_ns, hs]
  case el2of1 => simp [aarch32At, h2, hr]
  case noEL2 => simp [aarch32At, hr, usableEL2, h2]
  case unusable => simp [aarch32At, hr, usableEL2, eff_ns, hn, he]

/-- Settles O56: NS is its stored bit on every implementation. -/
theorem securityStateOfLowerLevels : Obligations.SecurityStateOfLowerLevels := by
  unfold Obligations.SecurityStateOfLowerLevels
  intro p v _
  refine ⟨?el0, ?el1, fun hn => ?nonSecure, fun hn he => ⟨?secure, fun h2 => ?aarch64⟩, fun hn he => ?noEL2⟩
  case el0 => simp [secureAt, eff_ns]
  case el1 => simp [secureAt, eff_ns]
  case nonSecure => simp [secureAt, eff_ns, hn]
  case secure => simp [secureAt, eff_ns, hn, he]
  case aarch64 => simp [aarch32At, h2, eff_ns, hn, he]
  case noEL2 => simp [secureAt, eff_ns, hn, he]

end Sys2Proof.Machine
end

section
/-! SError and External aborts: the routing by EA and the mask of an SError at EL3 (rules R84, R85, R104). -/

namespace Sys2Proof.Machine

variable {w : View} {el : EL} {a : Bool}

/-! ## The routing, case by case -/

/-- With EA 0 neither an SError nor an External abort goes to EL3 from below, and at EL3 nothing is stated (rule R104). -/
theorem route_of_not_ea {src : Source} (hsrc : src = .interrupt .serror ∨ ∃ b, src = .externalAbort b)
    (ho : w .own .ea = false) : route w el a src = if belowEL3 el then .notToEL3 else .notStated := by
  obtain rfl | ⟨b, rfl⟩ := hsrc <;> exact if_neg (Bool.eq_false_iff.mp ho)

theorem route_externalAbort_of_ea (b : Bool) (ho : w .own .ea = true) : route w el a (.externalAbort b) = .toEL3 :=
  if_pos ho

theorem route_serror_of_below (ho : w .own .ea = true) (hl : el ≠ .el3) : route w el a (.interrupt .serror) = .toEL3 :=
  (if_pos ho).trans (if_pos (belowEL3_iff.mpr hl))

/-- At EL3 the mask decides over an SError (rule R84). -/
theorem route_serror_at_el3 (ho : w .own .ea = true) {m : Bool} (hm : serrorMaskedAtEL3 (w .masking) a = some m) :
    route w .el3 a (.interrupt .serror) = if m then .pending else .toEL3 := by
  simp only [route, ho, belowEL3, hm, if_true, Bool.false_eq_true, if_false]
  cases m <;> rfl

/-- Where the mask's own evaluation sees EA at 0 there is no answer (D14). -/
theorem route_serror_unanswered (ho : w .own .ea = true) (hm : w .masking .ea = false) :
    route w .el3 a (.interrupt .serror) = .notStated := by
  simp [route, ho, belowEL3, serrorMaskedAtEL3, hm]

theorem serrorMaskedAtEL3_of_ea {e : Controls} (he : e .ea = true) : serrorMaskedAtEL3 e a = some (!e .nmea && a) :=
  if_pos he

/-! ## The statements -/

/-- Where the routing of a source is known, so is the step. -/
theorem Routed.of_eq {s : State} {src : Source} {r r' : Routing} (h : Routed s src r) (hr : r = r') :
    Routed s src r' := hr ▸ h

/-- Settles O44: the step follows the routing, case by case. -/
theorem serrorRoutingAndMasking : Obligations.SerrorRoutingAndMasking := by
  unfold Obligations.SerrorRoutingAndMasking
  intro s h
  have hr := step_of_offers h
  have eaZero := fun ho : s.controls .own .ea = false => hr.of_eq (route_of_not_ea (.inl rfl) ho)
  have atEL3 : s.controls .own .ea = true → s.el = .el3 → s.controls .masking .ea = true →
      Routed s (.interrupt .serror) (if (!s.controls .masking .nmea && s.a) = true then .pending else .toEL3) :=
    fun ho hl hm => by
      rw [hl, route_serror_at_el3 ho (serrorMaskedAtEL3_of_ea hm)] at hr
      exact hr
  refine ⟨s.follows _, fun ho hl => ?taken, fun ho hl hm => ⟨fun ⟨hn, ha⟩ => ?masked, fun hn => ?unmasked⟩,
    fun ho hl hm => ?unanswered, fun ho hl => ?below, fun ho hl => ?lost⟩
  case taken => exact hr.of_eq (route_serror_of_below ho hl)
  case masked => exact (atEL3 ho hl hm).of_eq (if_pos (by rw [hn, ha]; rfl))
  case unmasked => exact (atEL3 ho hl hm).of_eq (if_neg (by obtain h | h := hn <;> simp [h]))
  case unanswered =>
    rw [hl, route_serror_unanswered ho hm] at hr
    exact hr
  case below => exact (eaZero ho).of_eq (if_pos (belowEL3_iff.mpr hl))
  case lost => exact (eaZero ho).of_eq (if_neg fun hb => belowEL3_iff.mp hb hl)

/-- Settles O45: EA alone routes an External abort, and a synchronous one has `abortHandler` for its handler. -/
theorem externalAbortRoutingAndVector : Obligations.ExternalAbortRoutingAndVector := by
  unfold Obligations.ExternalAbortRoutingAndVector
  intro s
  have eaZero := fun b (h : Aborts s b) (ho : s.controls .own .ea = false) =>
    (step_of_aborts h).of_eq (route_of_not_ea (.inr ⟨b, rfl⟩) ho)
  refine ⟨s.follows _, fun h ho => ?synchronous, fun h ho => ?asynchronous, fun b h ho hl => ?below,
    fun b h ho hl => ?lost⟩
  case synchronous => exact (step_of_aborts h).of_eq (route_externalAbort_of_ea true ho)
  case asynchronous => exact (step_of_aborts h).of_eq (route_externalAbort_of_ea false ho)
  case below => exact (eaZero b h ho).of_eq (if_pos (belowEL3_iff.mpr hl))
  case lost => exact (eaZero b h ho).of_eq (if_neg fun hb => belowEL3_iff.mp hb hl)

end Sys2Proof.Machine
end

section
/-!
What the fields make the PE do: the statements on EEL2, TLOR and SMD, and on the operations without EL3 or for an absent
feature.
-/

namespace Sys2Proof.Machine

variable {s : State} {rival : Bool}

theorem secEL2Disabled_iff {e : Controls} : secEL2Disabled e = true ↔ e .eel2 = false := by simp [secEL2Disabled]

/-! ## ARMv8.4-SecEL2 -/

/-- An access to an ARMv8.4-SecEL2 register is contested by `secEL2Disabled`, with EL3 and without (rule R87; log 14). -/
theorem step_of_secEL2Register (h : Asks s .secEL2Register rival) :
    (s.controls .own .eel2 = false → Raises s rival (.undefined .secEL2Register)) ∧
    (s.controls .own .eel2 = true → Answers s .notAffected) := by
  obtain ⟨disabled, enabled⟩ := outcomes_of_iff secEL2Disabled_iff (step_of_contested (step_of_asks h rfl (Bool.or_true _)))
  exact ⟨disabled, fun he => enabled fun hd => Bool.eq_false_iff.mp hd he⟩

/-- Its timers are disabled by the same predicate. -/
theorem step_of_secEL2Timer (h : Asks s .secEL2Timer rival) :
    (s.controls .own .eel2 = false → Answers s .timersDisabled) ∧
    (s.controls .own .eel2 = true → Answers s .notAffected) := by
  have hs := step_of_asks h rfl (Bool.or_true _)
  refine ⟨fun he => answers_of_step hs (congrArg Host.Outcome.next (if_pos (secEL2Disabled_iff.mpr he))),
    fun he => answers_of_step hs (congrArg Host.Outcome.next (if_neg fun hd => ?_))⟩
  exact Bool.eq_false_iff.mp (secEL2Disabled_iff.mp hd) he

/-- Settles O47. -/
theorem secureEL2DisabledEffects : Obligations.SecureEL2DisabledEffects := by
  unfold Obligations.SecureEL2DisabledEffects
  exact fun s _ _ => ⟨s.follows _, step_of_secEL2Register, step_of_secEL2Timer⟩

/-! ## Without EL3, or without the feature -/

theorem State.attempt_params (s : State) (rival : Bool) : (s.attempt rival).params = s.params := rfl

/-- An operation on an absent feature is refused by name (rule R21; log 9). -/
theorem step_of_asks_unavailable {op : Operation} (h : Asks s op rival) (ha : op.available s.params = false) :
    step s = .refused (.absentFeature op) := by
  obtain ⟨rest, he⟩ := h
  rw [step_attempt he, judge, s.attempt_params, if_neg (Bool.eq_false_iff.mp ha)]
  rfl

/-- Without EL3 an operation is refused, but for those of the Effective values that have a clause for it (D3; log 14). -/
theorem step_of_asks_without_el3 {op : Operation} (h : Asks s op rival) (ha : op.available s.params = true)
    (h3 : s.params.haveEL3 = false) (ho : op.withoutEL3 = false) : step s = .refused .noEL3 := by
  obtain ⟨rest, he⟩ := h
  have hn : ¬(s.params.haveEL3 || op.withoutEL3) = true := by simp [h3, ho]
  rw [step_attempt he, judge, s.attempt_params, if_pos ha, if_neg hn]
  rfl

/-- Without EL3 the Effective values of API and APK are 1 where pointer authentication is implemented (R28, R29). -/
theorem controls_pauth_without_el3 {f : Field} (hf : f = .api ∨ f = .apk) (hp : s.params.havePAuth = true)
    (h3 : s.params.haveEL3 = false) (r : Evaluation) : s.controls r f = true := by
  obtain rfl | rfl := hf <;> rw [State.controls, seen_of_not_served rfl] <;> simp [eff, effPAuth, hp, h3]

/-- Settles O48: FIEN, API and APK are seen at 1, so their traps do not apply; EEL2 governs as with EL3; the rest is
refused. -/
theorem operationsWithoutEL3OrFeature : Obligations.OperationsWithoutEL3OrFeature := by
  unfold Obligations.OperationsWithoutEL3OrFeature
  intro s op rival h
  refine ⟨step_of_asks_unavailable h, fun ha h3 => ?_⟩
  cases op with
  | faultInjection r =>
    obtain ⟨-, passes⟩ := step_of_contested (step_of_asks h ha (Bool.or_true _))
    refine passes fun ht => ?_
    exact Bool.eq_false_iff.mp (trapFaultInjection_iff.mp ht).1 (controls_fien_without_el3 h3 .own)
  | pauthInstr enabled =>
    obtain ⟨-, passes⟩ := step_of_decided (step_of_asks h ha (Bool.or_true _))
    refine passes fun ht => ?_
    exact Bool.eq_false_iff.mp (trapPAuthInstr_iff.mp ht).1 (controls_pauth_without_el3 (.inl rfl) ha h3 .own)
  | pauthKey =>
    obtain ⟨-, passes⟩ := step_of_decided (step_of_asks h ha (Bool.or_true _))
    refine passes fun ht => ?_
    exact Bool.eq_false_iff.mp (trapPAuthKey_iff.mp ht).1 (controls_pauth_without_el3 (.inr rfl) ha h3 .own)
  | secEL2Register => exact step_of_secEL2Register h
  | secEL2Timer => exact step_of_secEL2Timer h
  | tag | scxtAccess | scxtUse | aarch32SecureOp | errorRecord | lor | wfe | wfi | secureTimer | hvc | smc | fetch
  | access => exact step_of_asks_without_el3 h ha h3 rfl

/-! ## The operations of the lost lists, TLOR and SMD -/

/-- A trap of a lost list's operation goes to Secure EL2 with the list's class, or to EL3 (rules R88 to R90). -/
theorem aarch32SecureOpFault_of_enabled {e : Controls} (he : e .eel2 = true) (l : LostList) :
    aarch32SecureOpFault e l = .trapToSecureEL2 (.aarch32SecureOp l) (if l = .ec3 then 0x3#6 else 0x0#6) := by
  rw [aarch32SecureOpFault, if_pos he]
  cases l <;> rfl

theorem aarch32SecureOpFault_of_disabled {e : Controls} (he : e .eel2 = false) (l : LostList) :
    aarch32SecureOpFault e l = .trapToEL3 (.aarch32SecureOp l) :=
  if_neg (Bool.eq_false_iff.mp he)

/-- Settles O49: contested by `trapAArch32SecureOp`, where Secure EL1 is EL1 with NS at 0. -/
theorem aArch32SecureOpsTrap : Obligations.AArch32SecureOpsTrap := by
  unfold Obligations.AArch32SecureOpsTrap
  intro s l rival h h3 ha
  have ht : trapAArch32SecureOp s.el ((s.attempt rival).secure s.controls) s.usesAArch32 = true ↔
      s.el = .el1 ∧ s.controls .security .ns = false ∧ s.usesAArch32 = true := by
    rw [trapAArch32SecureOp_iff, el1_and_secure_iff]
  obtain ⟨traps, passes⟩ := outcomes_of_iff ht (step_of_contested (step_of_asks_with_el3 h ha h3))
  exact ⟨s.follows _, fun hc => ⟨fun he => aarch32SecureOpFault_of_enabled he l ▸ traps hc,
    fun he => aarch32SecureOpFault_of_disabled he l ▸ traps hc⟩, passes⟩

/-- Settles O52: contested by `trapLOR`. -/
theorem tlorTrapsLorRegisters : Obligations.TlorTrapsLorRegisters := by
  unfold Obligations.TlorTrapsLorRegisters
  intro s r u rival h h3 ha
  exact ⟨s.follows _, outcomes_of_iff trapLOR_iff (step_of_contested (step_of_asks_with_el3 h ha h3))⟩

/-- Settles O60: a rival may claim an SMC at EL1 and EL2 alone. -/
theorem smdDisablesSmc : Obligations.SmdDisablesSmc := by
  unfold Obligations.SmdDisablesSmc
  intro s rival h h3
  obtain ⟨undef, passes⟩ := outcomes_of_iff smcUndefined_iff (step_of_smc (step_of_asks_with_el3 h rfl h3))
  refine ⟨s.follows _, fun hc => ?outside, fun _ hd => ?atEL1orEL2, fun hl hd => ?enabled⟩
  case outside =>
    have hl : ¬(s.el = .el1 ∨ s.el = .el2) := by obtain hl | ⟨hl, -⟩ := hc <;> simp [hl]
    exact (undef (hc.imp_right And.right)).resolve_right fun ⟨hr, _⟩ => hl hr
  case atEL1orEL2 => exact (undef (.inr hd)).imp_right And.right
  case enabled => exact passes fun hu => hu.elim hl (Bool.eq_false_iff.mp hd)

end Sys2Proof.Machine
end

section
/-! SIF and NS on a fetch, and NS on an access (rules R101, R107). -/

namespace Sys2Proof.Machine

variable {s : State} {rival : Bool} {addr : Word}

/-- Settles O58: decided by `secureMemoryForbidden`, whose region condition is a touched byte. -/
theorem nsDeniesSecureMemory : Obligations.NsDeniesSecureMemory := by
  unfold Obligations.NsDeniesSecureMemory
  intro s a n rival h h3 denied
  have hd : secureMemoryForbidden (s.controls .security) s.el (marked s.marks .secure a.toNat n) = true ↔ denied := by
    rw [secureMemoryForbidden_iff, marked_iff]
  exact ⟨s.follows _, outcomes_of_iff hd (step_of_decided (step_of_asks_with_el3 h rfl h3))⟩

/-! ## How a fetch is judged -/

theorem judgeFetch_of_denied {c : Attempt} {w : View}
    (hd : secureMemoryForbidden (w .security) c.el (marked c.marks .secure addr.toNat 4) = true) :
    judgeFetch c w addr = .fault (.secureMemoryDenied addr) :=
  if_pos hd

/-- A fetch that NS permits, of memory marked Non-secure while SIF is 1, is judged by the Security state (rule R101). -/
theorem judgeFetch_of_guarded {c : Attempt} {w : View}
    (hd : ¬secureMemoryForbidden (w .security) c.el (marked c.marks .secure addr.toNat 4) = true)
    (hg : w .own .sif = true ∧ marked c.marks (nonSecureMark c.params) addr.toNat 4 = true) :
    (secureAt (w .security) c.el = some true → judgeFetch c w addr = .fault (.fetchNotPermitted addr)) ∧
    (secureAt (w .security) c.el = none → judgeFetch c w addr = .refused .noUsableEL2) ∧
    (secureAt (w .security) c.el = some false → judgeFetch c w addr = .next .notAffected) := by
  obtain ⟨hs, hm⟩ := hg
  rw [judgeFetch, if_neg hd, hm, hs, Bool.and_true, if_pos rfl]
  refine ⟨fun h => ?_, fun h => ?_, fun h => ?_⟩ <;> simp [h, secureFetchForbidden, hs, raise]

theorem judgeFetch_of_unguarded {c : Attempt} {w : View}
    (hd : ¬secureMemoryForbidden (w .security) c.el (marked c.marks .secure addr.toNat 4) = true)
    (hg : ¬(w .own .sif = true ∧ marked c.marks (nonSecureMark c.params) addr.toNat 4 = true)) :
    judgeFetch c w addr = .next .notAffected := by
  rw [judgeFetch, if_neg hd, if_neg]
  exact fun h => hg (Bool.and_eq_true_iff.mp h).symm

/-! ## What a judged fetch does to the step -/

/-- A rival control plays no part in a fetch (rules R101, R107). -/
theorem judge_fetch (h3 : s.params.haveEL3 = true) :
    judge (s.attempt rival) s.controls (.fetch addr) = judgeFetch (s.attempt false) s.controls addr :=
  judge_of_available (c := s.attempt rival) (op := .fetch addr) rfl (by rw [s.attempt_params, h3, Bool.true_or])
    s.controls

/-- A fetch that is not permitted stops the step as it was judged, attempted or the machine's own. -/
theorem step_of_stopped_fetch (h3 : s.params.haveEL3 = true)
    (h : Asks s (.fetch addr) rival ∨ (s.events = [] ∧ s.fetchMarked = true ∧ s.pc = addr)) :
    (∀ f, judgeFetch (s.attempt false) s.controls addr = .fault f → step s = .fault f) ∧
    (∀ r, judgeFetch (s.attempt false) s.controls addr = .refused r → step s = .refused r) := by
  obtain ⟨rest, he⟩ | ⟨he, hm, rfl⟩ := h
  case inl =>
    refine ⟨fun f hj => ?_, fun r hj => ?_⟩ <;> rw [step_attempt he, judge_fetch h3, hj] <;> rfl
  case inr =>
    refine ⟨fun f hj => ?_, fun r hj => ?_⟩ <;>
      simp only [step, he, fetch, State.fetchChecked, hm, if_true, judge_fetch h3, hj]

/-- A permitted fetch is answered when attempted, and the machine's own runs the instruction. -/
theorem step_of_permitted_fetch (h3 : s.params.haveEL3 = true)
    (h : Asks s (.fetch addr) rival ∨ (s.events = [] ∧ s.fetchMarked = true ∧ s.pc = addr))
    (hj : judgeFetch (s.attempt false) s.controls addr = .next .notAffected) :
    (Asks s (.fetch addr) rival → Answers s .notAffected) ∧
    (s.events = [] → ∀ i, fetchDecode s.mem s.pc = .next i → step s = exec i { s with draws := s.draws + 1 }) := by
  refine ⟨fun ha => answers_of_step (step_of_asks_with_el3 ha rfl h3) hj, fun he i hi => ?_⟩
  obtain ⟨rest, he'⟩ | ⟨-, hm, rfl⟩ := h
  · cases he.symm.trans he'
  · exact step_of_fetchDecode he (fetchChecked_of_marked hm ((judge_fetch h3).trans hj)) hi

/-- Settles O57: `denied` and `guarded` are the two conditions of `judgeFetch`, and the Security state decides the rest. -/
theorem sifAndNsOnAFetch : Obligations.SifAndNsOnAFetch := by
  unfold Obligations.SifAndNsOnAFetch
  intro s addr h3 denied guarded secure
  have hd : secureMemoryForbidden (s.controls .security) s.el (marked s.marks .secure addr.toNat 4) = true ↔ denied := by
    rw [secureMemoryForbidden_iff, marked_iff]
  have hg : s.controls .own .sif = true ∧ marked s.marks (nonSecureMark s.params) addr.toNat 4 = true ↔ guarded :=
    and_congr_right fun _ => marked_iff
  have judged := fun (nd : ¬denied) (g : guarded) =>
    judgeFetch_of_guarded (c := s.attempt false) (w := s.controls) (addr := addr) (mt hd.mp nd) (hg.mpr g)
  refine ⟨s.follows _, fun rival h => ?_⟩
  obtain ⟨faults, refuses⟩ := step_of_stopped_fetch h3 h
  refine ⟨fun d => ?denied, fun nd g hs => ?notPermitted, fun nd g hs => ?noEL2, fun nd hs => ?permitted⟩
  case denied => exact faults _ (judgeFetch_of_denied (hd.mpr d))
  case notPermitted => exact faults _ ((judged nd g).1 hs)
  case noEL2 => exact refuses _ ((judged nd g).2.1 hs)
  case permitted =>
    refine step_of_permitted_fetch h3 h ?_
    by_cases g : guarded
    · exact (judged nd g).2.2 (hs g)
    · exact judgeFetch_of_unguarded (mt hd.mp nd) (mt hg.mp g)

end Sys2Proof.Machine
end
